-- ==== Sys2Proof/Word.lean ====
section
/-! DEFINITION. Word.lean: the word types of the unit (00_scope.md R6: every quantity is an unsigned
integer of a fixed width or a byte count; a byte is 8 bits). -/

namespace Sys2Proof

/-- A byte of a buffer or of the wire (00_scope.md R6). -/
abbrev Byte := BitVec 8

/-- A 16-bit field: message type, lengths, type code, port (20_memory.md R46). -/
abbrev Word16 := BitVec 16

/-- A 32-bit field: the magic cookie and the three words of a transaction id (20_memory.md R46). -/
abbrev Word32 := BitVec 32

/-- The 96-bit transaction id (10_state.md R18). -/
abbrev TxId := BitVec 96

/-- The 2-bit class code (10_state.md R15). -/
abbrev ClassCode := BitVec 2

/-- The 12-bit method code (10_state.md R16). -/
abbrev MethodCode := BitVec 12

/-- The 4-bit name id of an attribute name (10_state.md R19). -/
abbrev NameId := BitVec 4

end Sys2Proof
end

