-- ==== Sys2Proof/Machine/Flags.lean ====
section
/-! DEFINITION. Machine/Flags.lean: the error codes and the STATUS register, the unit's only flag register
(10_state.md R13; 60_exceptions.md R171). There is no carry, zero, overflow or sign flag (10_state.md R13). -/

namespace Sys2Proof.Machine

/-- The errors of 60_exceptions.md R171, one constructor per code other than `OK`. -/
inductive Err where
  /-- `E_RESERVED_BITS`, "malformed message-type field" -/
  | reservedBits
  /-- `E_BAD_COOKIE`, "bad magic cookie" -/
  | badCookie
  /-- `E_ATTR_TRUNC`, "attribute length exceeding available bytes" -/
  | attrTrunc
  /-- `E_LEN_MISMATCH`, "length mismatch" -/
  | lenMismatch
  /-- `E_SHORT_HDR`, a header window shorter than 20 bytes -/
  | shortHdr
  /-- `E_UNSUP_METHOD`, "unrecognized method" -/
  | unsupMethod
  /-- `E_UNKNOWN_TYPE`, "unrecognized attribute type" -/
  | unknownType
  /-- `E_UNKNOWN_NAME`, "unknown attribute name" -/
  | unknownName
  /-- `E_IPV6`, "not implemented" -/
  | ipv6
  /-- `E_ADDR_FORMAT`, "invalid address format" -/
  | addrFormat
  /-- `E_ILLEGAL_CMD`, a CMD value that selects no command -/
  | illegalCmd
  /-- `E_WIDTH`, "value too large for requested width"; `numberToBytes` only -/
  | width
  deriving DecidableEq, Repr

/-- The error classes of 60_exceptions.md R171. -/
inductive ErrClass where
  | malformedField
  | unsupportedFeature
  | format
  | interface
  deriving DecidableEq, Repr

/-- STATUS after a successful command: `OK` (60_exceptions.md R171). -/
def statusOk : Byte := 0x00#8

/-- The STATUS code of an error (60_exceptions.md R171). -/
def errCode : Err → Byte
  | .reservedBits => 0x11#8
  | .badCookie    => 0x12#8
  | .attrTrunc    => 0x13#8
  | .lenMismatch  => 0x14#8
  | .shortHdr     => 0x15#8
  | .unsupMethod  => 0x21#8
  | .unknownType  => 0x22#8
  | .unknownName  => 0x23#8
  | .ipv6         => 0x24#8
  | .addrFormat   => 0x31#8
  | .illegalCmd   => 0x41#8
  | .width        => 0x42#8

/-- The class of an error (60_exceptions.md R171). -/
def errClass : Err → ErrClass
  | .reservedBits | .badCookie | .attrTrunc | .lenMismatch | .shortHdr => .malformedField
  | .unsupMethod | .unknownType | .unknownName | .ipv6 => .unsupportedFeature
  | .addrFormat => .format
  | .illegalCmd | .width => .interface

/-- The number of a class in `STATUS[7:4]` (10_state.md R13; 60_exceptions.md R171). -/
def classNumber : ErrClass → BitVec 4
  | .malformedField     => 1#4
  | .unsupportedFeature => 2#4
  | .format             => 3#4
  | .interface          => 4#4

/-- `STATUS[7:4]`, the class of the outcome of the last command (10_state.md R13); 0 when it succeeded. -/
def statusClass (status : Byte) : BitVec 4 := status.extractLsb' 4 4

/-- `STATUS[3:0]`, the number within the class (10_state.md R13). -/
def statusNumber (status : Byte) : BitVec 4 := status.extractLsb' 0 4

/-- The errors a command can raise: all but `E_WIDTH`, which belongs to `numberToBytes` alone
(60_exceptions.md R172). -/
def commandErrors : List Err :=
  [.reservedBits, .badCookie, .attrTrunc, .lenMismatch, .shortHdr, .unsupMethod, .unknownType, .unknownName,
    .ipv6, .addrFormat, .illegalCmd]

/-- The values STATUS can hold (60_exceptions.md R171, R172): `OK` or the code of an error some command raises. -/
def statusLegal (status : Byte) : Bool :=
  (statusOk :: commandErrors.map errCode).contains status

end Sys2Proof.Machine
end

