-- ==== Sys2Proof/Machine/Conversion.lean ====
section
/-! DEFINITION. Machine/Conversion.lean: the byte and bit conversion utilities (40_conversion.md), the only place
where bit and byte order is decided (20_memory.md R42). Numbers are natural numbers without a width limit. -/

namespace Sys2Proof.Machine

/-- `s[a:b]` on a byte sequence, the half-open range of indices `a` to `b-1` (00_scope.md R6). -/
def slice (s : List Byte) (a b : Nat) : List Byte := (s.drop a).take (b - a)

/-- The eight bits of a byte, most significant first (20_memory.md R42). -/
def byteBits (b : Byte) : List Bool :=
  [b.getLsbD 7, b.getLsbD 6, b.getLsbD 5, b.getLsbD 4, b.getLsbD 3, b.getLsbD 2, b.getLsbD 1, b.getLsbD 0]

/-- `bytesToBits` (40_conversion.md R91). -/
def bytesToBits : List Byte → List Bool
  | [] => []
  | b :: bs => byteBits b ++ bytesToBits bs

/-- `bytesToNumber` (40_conversion.md R92): big-endian; the empty sequence gives 0. -/
def bytesToNumber : List Byte → Nat
  | [] => 0
  | b :: bs => b.toNat * 256 ^ bs.length + bytesToNumber bs

/-- `bitsToNumber` (40_conversion.md R93): the leftmost boolean is the most significant bit. -/
def bitsToNumber : List Bool → Nat
  | [] => 0
  | b :: bs => b.toNat * 2 ^ bs.length + bitsToNumber bs

/-- The `count` low-order bytes of `number`, big-endian: byte `k` is `(number div 256^(count-1-k)) mod 256`
(40_conversion.md R94). -/
def bigEndian (number : Nat) : Nat → List Byte
  | 0 => []
  | k + 1 => BitVec.ofNat 8 (number / 256 ^ k) :: bigEndian number k

/-- `numberToBytes` (40_conversion.md R94): a number too wide for the count is the error `E_WIDTH`, never a
truncation (90_conflicts.md C4). -/
def numberToBytes (number count : Nat) : Except Err (List Byte) :=
  if number < 256 ^ count then .ok (bigEndian number count) else .error .width

/-- The big-endian value of the field `w[a:b]` (20_memory.md R41). -/
def field (w : List Byte) (a b : Nat) : Nat := bytesToNumber (slice w a b)

/-- The 16-bit word of two bytes, the more significant first (20_memory.md R41). -/
def word16 (hi lo : Byte) : Word16 := hi ++ lo

/-- The 32-bit word of four bytes, the most significant first (20_memory.md R41). -/
def word32 (a b c d : Byte) : Word32 := a ++ b ++ c ++ d

/-- A hexadecimal digit in lower case (40_conversion.md R98). -/
def hexDigit (n : Nat) : Char :=
  if n < 10 then Char.ofNat (0x30 + n) else Char.ofNat (0x61 + (n - 10))

/-- The two hexadecimal digits of a byte, high four bits first (40_conversion.md R98). -/
def byteHex (b : Byte) : List Char := [hexDigit (b.toNat / 16), hexDigit (b.toNat % 16)]

/-- `txidHex` (40_conversion.md R98): the source's 24-character view of a transaction id. -/
def txidHex (t : TxId) : List Char := (bigEndian t.toNat 12).flatMap byteHex

/-- The value of a hexadecimal digit of either case. The case of the string is not the unit's concern
(91_not_in_source.md N6). -/
def hexValue (c : Char) : Option Nat :=
  let n := c.toNat
  if 0x30 ≤ n ∧ n ≤ 0x39 then some (n - 0x30)
  else if 0x61 ≤ n ∧ n ≤ 0x66 then some (n - 0x61 + 10)
  else if 0x41 ≤ n ∧ n ≤ 0x46 then some (n - 0x41 + 10)
  else none

/-- The number a run of hexadecimal digits writes, most significant first; nothing for another character. -/
def hexNumber : List Char → Option Nat
  | [] => some 0
  | c :: cs =>
    match hexValue c, hexNumber cs with
    | some d, some n => some (d * 16 ^ cs.length + n)
    | _, _ => none

/-- The inverse of `txidHex` that the encoder uses (40_conversion.md R98): three 4-byte big-endian integers,
characters 0 to 7, 8 to 15 and 16 to 23. -/
def txidWordsOfHex (s : List Char) : Option (Word32 × Word32 × Word32) :=
  if s.length = 24 then
    match hexNumber (s.take 8), hexNumber ((s.drop 8).take 8), hexNumber (s.drop 16) with
    | some a, some b, some c => some (BitVec.ofNat 32 a, BitVec.ofNat 32 b, BitVec.ofNat 32 c)
    | _, _, _ => none
  else none

end Sys2Proof.Machine
end

