-- ==== Sys2Proof/Config.lean ====
section
/-! DEFINITION. Config.lean: the shape of what an implementation fixes (00_scope.md R5), as types. The values
this model takes for them stand in Sys2Proof/Machine/Parameters.lean. -/

namespace Sys2Proof

/-- Where the two class bits stand in the message-type field: `rfc` is the spec's default, `literal` the
alternative it keeps as a parameter value (30_encoding.md R61, R68; 90_conflicts.md C1). -/
inductive TypeLayout where
  | rfc
  | literal
  deriving DecidableEq, Repr

/-- One row of the attribute-type registry: a 16-bit code and the name id that stands for a symbolic name
(10_state.md R19, R29; 30_encoding.md R75). -/
structure RegistryRow where
  code : Word16
  name : NameId
  deriving DecidableEq, Repr

/-- The parameters of the unit that the spec lets a model take as configuration (00_scope.md R5): the layout
of the message-type field, the registry and the four buffer capacities. `LATENCY` and `BUS_MAP` are read by no
rule and have no field here (log entry 17). -/
structure Config where
  typeLayout : TypeLayout
  registry   : List RegistryRow
  inCap      : Nat
  outCap     : Nat
  valCap     : Nat
  xaddrCap   : Nat
  deriving DecidableEq, Repr

/-- The four buffers, each an address space of its own (20_memory.md R40). -/
inductive Buf where
  | bufIn
  | bufVal
  | bufOut
  | bufXaddr
  deriving DecidableEq, Repr

end Sys2Proof
end

