-- ==== Sys2Proof/Machine/Parameters.lean ====
section
/-! DEFINITION. Machine/Parameters.lean: the constants the source fixes and the parameter values this model
takes (00_scope.md R5). -/

namespace Sys2Proof.Machine

/-- `MAGIC`, a wired constant (10_state.md R30). -/
def magic : Word32 := 0x2112A442#32

/-- The four bytes of the magic cookie in wire order (10_state.md R30), `MAGICBYTE` of 41_attribute.md R121. -/
def magicBytes : List Byte := [0x21#8, 0x12#8, 0xA4#8, 0x42#8]

/-- The upper 16 bits of the magic cookie, with which the port is XORed (10_state.md R30; 41_attribute.md R119). -/
def magicHigh : Word16 := 0x2112#16

/-- `HDR_LEN` (00_scope.md R5): the header is always exactly 20 bytes. -/
def hdrLen : Nat := 20

/-- `TLV_HDR_LEN` (00_scope.md R5): an attribute's type and length bytes. -/
def tlvHdrLen : Nat := 4

/-- `PAD_ALIGN` (00_scope.md R5). -/
def padAlign : Nat := 4

/-- `METHOD_BINDING` (00_scope.md R5; 30_encoding.md R65). -/
def methodBinding : MethodCode := 0x001#12

/-- `FAMILY_IPV4_BYTE` (00_scope.md R5; 30_encoding.md R77). -/
def familyIpv4Byte : Byte := 0x01#8

/-- The default registry (30_encoding.md R75). PRESUMED: the spec takes the eight codes from general knowledge
(RFC 5389), log entry 3. -/
def defaultRegistry : List RegistryRow :=
  [ { code := 0x0001#16, name := 0#4 },   -- MAPPED-ADDRESS
    { code := 0x0006#16, name := 1#4 },   -- USERNAME
    { code := 0x0008#16, name := 2#4 },   -- MESSAGE-INTEGRITY
    { code := 0x0009#16, name := 3#4 },   -- ERROR-CODE
    { code := 0x000A#16, name := 4#4 },   -- UNKNOWN-ATTRIBUTES
    { code := 0x0014#16, name := 5#4 },   -- REALM
    { code := 0x0015#16, name := 6#4 },   -- NONCE
    { code := 0x0020#16, name := 7#4 } ]  -- XOR-MAPPED-ADDRESS

/-- The parameter values of the unit modelled: the spec's defaults (00_scope.md R5; log entries 2, 3 and 4). -/
def unitConfig : Config where
  typeLayout := .rfc
  registry   := defaultRegistry
  inCap      := 65540
  outCap     := 65540
  valCap     := 65535
  xaddrCap   := 15

/-- The capacity of a buffer (10_state.md R23; 20_memory.md R52). -/
def capacity (c : Config) : Buf → Nat
  | .bufIn    => c.inCap
  | .bufVal   => c.valCap
  | .bufOut   => c.outCap
  | .bufXaddr => c.xaddrCap

/-- What every admissible registry satisfies (30_encoding.md R76; 92_eei_decisions.md D19): exactly the eight
names in their order, eight distinct codes, and 0xFFFF is not among them. -/
def registryAdmissible (r : List RegistryRow) : Bool :=
  (r.map (·.name) == [0#4, 1#4, 2#4, 3#4, 4#4, 5#4, 6#4, 7#4]) &&
    decide (r.map (·.code)).Nodup && !((r.map (·.code)).contains 0xFFFF#16)

end Sys2Proof.Machine
end

