-- ==== Sys2Proof/Machine/MessageType.lean ====
section
/-! DEFINITION. Machine/MessageType.lean: the bit field of the message type (30_encoding.md R61 to R68;
42_header.md R141 to R143). -/

namespace Sys2Proof.Machine

/-- MSB-first indices of the two class bits in the 16-bit field (30_encoding.md R61; R68 for `literal`). -/
def classIndices : TypeLayout → List Nat
  | .rfc     => [7, 11]
  | .literal => [5, 9]

/-- MSB-first indices of the twelve method bits, in order (42_header.md R141; 30_encoding.md R68). -/
def methodIndices : TypeLayout → List Nat
  | .rfc     => [2, 3, 4, 5, 6, 8, 9, 10, 12, 13, 14, 15]
  | .literal => [2, 3, 4, 6, 7, 8, 10, 11, 12, 13, 14, 15]

/-- `bitsToNumber` of the bits of `t` at the given indices. -/
def pickBits (t : List Bool) (indices : List Nat) : Nat := bitsToNumber (indices.map (t.getD · false))

/-- What `unpackType` reads from a message-type field: reserved bits, class code, method code. -/
structure TypeField where
  reserved : BitVec 2
  cls      : ClassCode
  method   : MethodCode
  deriving DecidableEq, Repr

/-- `unpackType` (42_header.md R141), the source's way: through `bytesToBits` and `bitsToNumber`. -/
def unpackType (layout : TypeLayout) (b0 b1 : Byte) : TypeField :=
  let t := bytesToBits [b0, b1]
  { reserved := BitVec.ofNat 2 (pickBits t [0, 1])
    cls      := BitVec.ofNat 2 (pickBits t (classIndices layout))
    method   := BitVec.ofNat 12 (pickBits t (methodIndices layout)) }

/-- The gather of 30_encoding.md R62 (and R68 for `literal`), by shifts and masks on the 16-bit field. -/
def gatherType (layout : TypeLayout) (t : Word16) : TypeField :=
  match layout with
  | .rfc =>
    { reserved := t.extractLsb' 14 2
      cls      := (((t >>> 7) &&& 2#16) ||| ((t >>> 4) &&& 1#16)).setWidth 2
      method   := (((t >>> 2) &&& 0xF80#16) ||| ((t >>> 1) &&& 0x070#16) ||| (t &&& 0x00F#16)).setWidth 12 }
  | .literal =>
    { reserved := t.extractLsb' 14 2
      cls      := (((t >>> 9) &&& 2#16) ||| ((t >>> 6) &&& 1#16)).setWidth 2
      method   := (((t >>> 2) &&& 0xE00#16) ||| ((t >>> 1) &&& 0x1C0#16) ||| (t &&& 0x03F#16)).setWidth 12 }

/-- The scatter of 30_encoding.md R63 (and R68 for `literal`): the 16-bit message-type field of a class and a
method, its two reserved bits zero. -/
def scatterType (layout : TypeLayout) (cls : ClassCode) (method : MethodCode) : Word16 :=
  let m := method.setWidth 16
  let c := cls.setWidth 16
  match layout with
  | .rfc =>
    ((m &&& 0xF80#16) <<< 2) ||| ((m &&& 0x070#16) <<< 1) ||| (m &&& 0x00F#16)
      ||| ((c &&& 2#16) <<< 7) ||| ((c &&& 1#16) <<< 4)
  | .literal =>
    ((m &&& 0xE00#16) <<< 2) ||| ((m &&& 0x1C0#16) <<< 1) ||| (m &&& 0x03F#16)
      ||| ((c &&& 2#16) <<< 9) ||| ((c &&& 1#16) <<< 6)

/-- `packType` (42_header.md R142): the two message-type bytes. -/
def packType (layout : TypeLayout) (cls : ClassCode) (method : MethodCode) : Except Err (List Byte) :=
  numberToBytes (scatterType layout cls method).toNat 2

/-- A 16-bit field as its two bytes on the wire (20_memory.md R41). -/
def fieldBytes (w : Word16) : List Byte := bigEndian w.toNat 2

end Sys2Proof.Machine
end

