-- ==== Sys2Proof/Machine/Registry.lean ====
section
/-! DEFINITION. Machine/Registry.lean: the attribute-type registry, a read-only table (10_state.md R29), and its
two lookups (41_attribute.md R111, R112). -/

namespace Sys2Proof.Machine

/-- `nameForCode` (41_attribute.md R111): the name id of the row with this code, or absent. -/
def nameForCode (r : List RegistryRow) (code : Word16) : Option NameId :=
  (r.find? (fun row => row.code == code)).map (·.name)

/-- `codeForName` (41_attribute.md R112): the code of the row with this name id, or absent. -/
def codeForName (r : List RegistryRow) (name : NameId) : Option Word16 :=
  (r.find? (fun row => row.name == name)).map (·.code)

/-- The type code that the opcode table's row of a name stands for under a configuration (30_encoding.md R75).
A name the registry lacks has no code; 0xFFFF, a code no registry holds (R76), stands there. -/
def rowCode (c : Config) (name : NameId) : Word16 := (codeForName c.registry name).getD 0xFFFF#16

end Sys2Proof.Machine
end

