-- ==== Sys2Proof/Syntax.lean ====
section
/-! DEFINITION. Syntax.lean: the instructions, one constructor per row of spec/opcode_table.json
(30_encoding.md R84). The table has three formats: `CMD8`, words the host writes to CMD; `MSGTYPE16`, words of
the message-type field of a header window; `ATTRTYPE16`, words of the type field of an attribute window. -/

namespace Sys2Proof

/-- One constructor per row of the opcode table. -/
inductive Instr where
  -- format CMD8 (30_encoding.md R79, R80)
  | parsehdr
  | genhdr
  | parseattr
  | genattr
  | genxma
  | rmpad
  /-- any command word that R79 does not assign -/
  | illegal (opcode : Byte)
  -- format MSGTYPE16 (30_encoding.md R61, R67)
  | bindingRequest
  | bindingIndication
  | bindingSuccess
  | bindingError
  /-- the generic row, for a method other than Binding -/
  | msgtype (cls : ClassCode) (method : MethodCode)
  -- format ATTRTYPE16 (30_encoding.md R75, R76)
  | mappedAddress
  | username
  | messageIntegrity
  | errorCode
  | unknownAttributes
  | realm
  | nonce
  | xorMappedAddress
  /-- any type code the registry does not hold -/
  | unknown (code : Word16)
  deriving DecidableEq, Repr

end Sys2Proof
end

