-- ==== Sys2Proof/WellFormed.lean ====
section
/-! DEFINITION. WellFormed.lean: which terms of `Instr` stand for a word of the opcode table. A catch-all row
(ILLEGAL, MSGTYPE, UNKNOWN) takes the words its format's other rows do not take. -/

namespace Sys2Proof

/-- The check behind `WellFormed` for any configuration, one clause per constructor. -/
def Instr.wfIn (c : Config) : Instr → Bool
  | .parsehdr => true
  | .genhdr => true
  | .parseattr => true
  | .genattr => true
  | .genxma => true
  | .rmpad => true
  -- every command word other than 0x01 to 0x06 (30_encoding.md R80)
  | .illegal opcode => opcode.toNat == 0 || decide (7 ≤ opcode.toNat)
  | .bindingRequest => true
  | .bindingIndication => true
  | .bindingSuccess => true
  | .bindingError => true
  -- the four classes of method Binding have rows of their own (30_encoding.md R67)
  | .msgtype _ method => method != Machine.methodBinding
  | .mappedAddress => true
  | .username => true
  | .messageIntegrity => true
  | .errorCode => true
  | .unknownAttributes => true
  | .realm => true
  | .nonce => true
  | .xorMappedAddress => true
  -- every code that is not one of the registry's (30_encoding.md R76)
  | .unknown code => (Machine.nameForCode c.registry code).isNone

/-- The check for the unit modelled. -/
def Instr.wf (i : Instr) : Bool := i.wfIn Machine.unitConfig

/-- The instruction stands for a word of its row of the opcode table. -/
abbrev WellFormed (i : Instr) : Prop := i.wf = true

end Sys2Proof
end

