-- ==== Sys2Proof/Decode.lean ====
section
/-! DEFINITION. Decode.lean: the three decoders of the opcode table (30_encoding.md R84), total on any bytes and
rejecting by name, and the encoder. The first byte of a word is its most significant one (20_memory.md R41). -/

namespace Sys2Proof

open Machine

/-- The row formats of the opcode table (30_encoding.md R84). Which one a word has depends on where it stands: in
CMD, in bytes 0 to 1 of a header window, or in bytes 0 to 1 of an attribute window. -/
inductive Format where
  | cmd8
  | msgType16
  | attrType16
  deriving DecidableEq, Repr

/-- Why a decoder gives no instruction. -/
inductive DecodeError where
  /-- fewer bytes than the format's word has -/
  | shortWord
  /-- a message-type field whose two top bits are not zero (30_encoding.md R66) -/
  | reservedBits
  deriving DecidableEq, Repr

/-- The format of an instruction's row. -/
def Instr.format : Instr → Format
  | .parsehdr | .genhdr | .parseattr | .genattr | .genxma | .rmpad | .illegal _ => .cmd8
  | .bindingRequest | .bindingIndication | .bindingSuccess | .bindingError | .msgtype _ _ => .msgType16
  | .mappedAddress | .username | .messageIntegrity | .errorCode | .unknownAttributes | .realm | .nonce
  | .xorMappedAddress | .unknown _ => .attrType16

/-- How many bytes a word of a format has. -/
def formatBytes : Format → Nat
  | .cmd8 => 1
  | .msgType16 => 2
  | .attrType16 => 2

/-- The command a CMD value selects (30_encoding.md R79, R80). -/
def commandOf (op : Byte) : Instr :=
  if op = 0x01#8 then .parsehdr
  else if op = 0x02#8 then .genhdr
  else if op = 0x03#8 then .parseattr
  else if op = 0x04#8 then .genattr
  else if op = 0x05#8 then .genxma
  else if op = 0x06#8 then .rmpad
  else .illegal op

/-- The row of a recognised message type (30_encoding.md R64, R67). -/
def bindingRow (cls : ClassCode) : Instr :=
  if cls = 0b00#2 then .bindingRequest
  else if cls = 0b01#2 then .bindingIndication
  else if cls = 0b10#2 then .bindingSuccess
  else .bindingError

/-- The row of a message-type field whose reserved bits are zero (30_encoding.md R67). -/
def messageTypeOf (t : TypeField) : Instr :=
  if t.method = methodBinding then bindingRow t.cls else .msgtype t.cls t.method

/-- The row of a registry name id (30_encoding.md R75); nothing for ids 8 to 15. -/
def nameRow (name : NameId) : Option Instr :=
  [Instr.mappedAddress, .username, .messageIntegrity, .errorCode, .unknownAttributes, .realm, .nonce,
    .xorMappedAddress][name.toNat]?

/-- The row of an attribute type code (30_encoding.md R75, R76). -/
def attributeTypeOf (c : Config) (code : Word16) : Instr :=
  match (nameForCode c.registry code).bind nameRow with
  | some i => i
  | none => .unknown code

/-- Reads one word of a format from a byte sequence: its instruction and the bytes after it, or the reason why
there is none (30_encoding.md R84). -/
def decodeWith (c : Config) : Format → List Byte → Except DecodeError (Instr × List Byte)
  | .cmd8, op :: rest => .ok (commandOf op, rest)
  | .msgType16, b0 :: b1 :: rest =>
    let t := unpackType c.typeLayout b0 b1
    if t.reserved = 0#2 then .ok (messageTypeOf t, rest) else .error .reservedBits
  | .attrType16, b0 :: b1 :: rest => .ok (attributeTypeOf c (word16 b0 b1), rest)
  | _, _ => .error .shortWord

/-- The decoders of the unit modelled. -/
def decode (f : Format) (bytes : List Byte) : Except DecodeError (Instr × List Byte) :=
  decodeWith unitConfig f bytes

/-- The word of an instruction, from the encoding tables of 30_encoding.md (R63, R75, R79). -/
def encodeWith (c : Config) : Instr → List Byte
  | .parsehdr => [0x01#8]
  | .genhdr => [0x02#8]
  | .parseattr => [0x03#8]
  | .genattr => [0x04#8]
  | .genxma => [0x05#8]
  | .rmpad => [0x06#8]
  | .illegal opcode => [opcode]
  | .bindingRequest => fieldBytes (scatterType c.typeLayout 0b00#2 methodBinding)
  | .bindingIndication => fieldBytes (scatterType c.typeLayout 0b01#2 methodBinding)
  | .bindingSuccess => fieldBytes (scatterType c.typeLayout 0b10#2 methodBinding)
  | .bindingError => fieldBytes (scatterType c.typeLayout 0b11#2 methodBinding)
  | .msgtype cls method => fieldBytes (scatterType c.typeLayout cls method)
  | .mappedAddress => fieldBytes (rowCode c 0#4)
  | .username => fieldBytes (rowCode c 1#4)
  | .messageIntegrity => fieldBytes (rowCode c 2#4)
  | .errorCode => fieldBytes (rowCode c 3#4)
  | .unknownAttributes => fieldBytes (rowCode c 4#4)
  | .realm => fieldBytes (rowCode c 5#4)
  | .nonce => fieldBytes (rowCode c 6#4)
  | .xorMappedAddress => fieldBytes (rowCode c 7#4)
  | .unknown code => fieldBytes code

/-- The word of an instruction on the unit modelled. -/
def encode (i : Instr) : List Byte := encodeWith unitConfig i

/-- The format that the table's numbering alone gives a 16-bit word: both 16-bit formats hold every word below
0x4000, so the row that fixes most of the word's bits is taken, a message type before an attribute type
(DESIGN CHOICE, log entry 7; the unit itself always knows the format from the command that reads the word). -/
def tableFormat16 (w : Word16) : Format :=
  match decode .msgType16 (fieldBytes w), decode .attrType16 (fieldBytes w) with
  | .ok (.msgtype _ _, _), .ok (.unknown _, _) => .msgType16
  | .ok (.msgtype _ _, _), _ => .attrType16
  | .ok _, _ => .msgType16
  | .error _, _ => .attrType16

/-- The instruction of a table word of `nbits` bits, numbered as the table numbers them: 8 bits are a CMD value,
16 bits a field whose most significant byte comes first on the wire (30_encoding.md R84). -/
def decodeTableWord (nbits w : Nat) : Option Instr :=
  let word : Option (Format × List Byte) :=
    if nbits = 8 then some (.cmd8, [BitVec.ofNat 8 w])
    else if nbits = 16 then
      some (tableFormat16 (BitVec.ofNat 16 w), fieldBytes (BitVec.ofNat 16 w))
    else none
  match word with
  | none => none
  | some (f, bytes) =>
    match decode f bytes with
    | .ok (i, _) => some i
    | .error _ => none

end Sys2Proof
end

