-- ==== Sys2Proof/Machine/State.lean ====
section
/-! DEFINITION. Machine/State.lean: the state of the unit (10_state.md R10 to R32), the host's pending actions and
what it has read, the reasons a step can stop, and the state after reset. -/

namespace Sys2Proof.Machine

/-- The sixteen registers by name, in the order of their numbers (10_state.md R11). `cmd` is a port and holds
nothing (R14); the four lengths are views of the buffers (R28). -/
inductive Reg where
  | cmd | status | hClass | hMethod | hLength | hTxid0 | hTxid1 | hTxid2 | aType | aLength | xFamily | xPort
  | inLen | valLen | outLen | xaddrLen
  deriving DecidableEq, Repr

/-- What the outside world can do to the unit, one at a time in one total order (20_memory.md R53): the host's
rights of 10_state.md R34 in the script notation of 30_encoding.md R81, and the platform's reset
(70_reset_and_hazards.md R201). -/
inductive HostAction where
  /-- `SET <reg>, <value>`: write a scalar register -/
  | set (r : Reg) (value : Nat)
  /-- `LDIN`, `LDVAL`, `LDADDR`: replace a whole buffer (20_memory.md R56) -/
  | load (b : Buf) (bytes : List Byte)
  /-- `<MNEMONIC>` or `CMD <value>`: write CMD, which executes a command at once (10_state.md R14) -/
  | cmd (value : Byte)
  /-- `CHK`: the script ends unless STATUS is `OK` -/
  | chk
  /-- `RD <reg>`: read a register -/
  | rd (r : Reg)
  /-- `RDBUF <buf>`: read the length and all bytes of a buffer -/
  | rdbuf (b : Buf)
  /-- `ReadBuf(B, i)`: read one byte of a buffer (20_memory.md R56) -/
  | readByte (b : Buf) (index : Nat)
  /-- `DROP`: the script ends (30_encoding.md R82) -/
  | drop
  /-- the platform resets the unit; no host right and no script line (70_reset_and_hazards.md R200, R201) -/
  | reset
  deriving DecidableEq, Repr

/-- What a host read has returned. -/
inductive Observation where
  | reg (r : Reg) (value : Nat)
  | buffer (b : Buf) (length : Nat) (bytes : List Byte)
  | byte (b : Buf) (index : Nat) (value : Byte)
  deriving DecidableEq, Repr

/-- The four buffers, each exactly its byte sequence with no byte beyond its length (10_state.md R23). -/
structure Memory where
  bufIn    : List Byte
  bufVal   : List Byte
  bufOut   : List Byte
  bufXaddr : List Byte
  deriving DecidableEq, Repr

/-- The machine. All fields but the last two are the spec's state (10_state.md R10); `script` and `observed` are
the model's own, the host's side of the interface (log entry 1). There is no program counter (R12). -/
structure State where
  status   : Byte
  hClass   : ClassCode
  hMethod  : MethodCode
  hLength  : Word16
  hTxid0   : Word32
  hTxid1   : Word32
  hTxid2   : Word32
  aType    : NameId
  aLength  : Word16
  xFamily  : BitVec 1
  xPort    : Word16
  mem      : Memory
  script   : List HostAction
  observed : List Observation
  deriving DecidableEq, Repr

/-- Why a step could stop with a fault: never. The type is empty because every error of the unit is a STATUS code
after which it goes on (60_exceptions.md R170, R177; 70_reset_and_hazards.md R207). Safe: it is the spec's own
statement (log entry 16). -/
inductive Fault where
  deriving DecidableEq, Repr

/-- Why a step gives no next state. Each is a host action to which 10_state.md R34 gives no meaning
(93_implementation_defined.md U15), or an overflow that cannot happen at the default capacities. -/
inductive Refusal where
  /-- raised by an arm of `exec` whose instruction has no meaning yet; safe; no arm raises it -/
  | notModelled (mnemonic : String)
  /-- raised by `SET` of STATUS or of a length register (10_state.md R34); safe -/
  | writeForbidden (r : Reg)
  /-- raised by `SET` of a value wider than the register (92_eei_decisions.md D27; DEDUCED, log entry 13); safe -/
  | valueTooWide (r : Reg)
  /-- raised by `RD` of CMD (10_state.md R14, R34); safe -/
  | readForbidden (r : Reg)
  /-- raised by a load of OUT (20_memory.md R56: "OUT has no load"); safe -/
  | loadForbidden (b : Buf)
  /-- raised by a load longer than the buffer's capacity (10_state.md R34); safe -/
  | loadTooLong (b : Buf)
  /-- raised by a read of a byte at or beyond the buffer's length (10_state.md R34); safe -/
  | readBeyond (b : Buf)
  /-- raised by a `MemWrite` longer than the capacity, only where a configuration has smaller capacities than the
  default (20_memory.md R52), or in a state whose VAL is already over its capacity; safe (log entry 5) -/
  | bufferOverflow (b : Buf)
  deriving DecidableEq, Repr

/-- The outcome of a step or of a command. -/
abbrev Result := Host.Outcome State Fault Refusal

/-- `len(B)` of every buffer is within its capacity (10_state.md R23). -/
abbrev Memory.wfIn (c : Config) (m : Memory) : Prop :=
  m.bufIn.length ≤ c.inCap ∧ m.bufVal.length ≤ c.valCap ∧ m.bufOut.length ≤ c.outCap ∧
    m.bufXaddr.length ≤ c.xaddrCap

/-- The form every memory of the unit modelled keeps. A buffer is a plain byte sequence, so equal contents are
equal data and nothing else has to be canonical (10_state.md R23; log entry 15). -/
abbrev Memory.wf (m : Memory) : Prop := m.wfIn unitConfig

/-- The machine right after reset (10_state.md R32; 70_reset_and_hazards.md R200): every scalar register zero, every
buffer empty, STATUS `OK`; no action pending and nothing read yet (log entry 1). -/
def State.reset : State where
  status   := 0x00#8
  hClass   := 0b00#2
  hMethod  := 0x000#12
  hLength  := 0x0000#16
  hTxid0   := 0x00000000#32
  hTxid1   := 0x00000000#32
  hTxid2   := 0x00000000#32
  aType    := 0x0#4
  aLength  := 0x0000#16
  xFamily  := 0#1
  xPort    := 0x0000#16
  mem      := { bufIn := [], bufVal := [], bufOut := [], bufXaddr := [] }
  script   := []
  observed := []

end Sys2Proof.Machine
end

