-- ==== Sys2Proof/Machine/Access.lean ====
section
/-! DEFINITION. Machine/Access.lean: reading and updating the state: the buffers, the length registers, which are
views of them (10_state.md R28), and the groups of registers that the commands write. -/

namespace Sys2Proof.Machine

/-- One buffer's content. -/
def Memory.get (m : Memory) : Buf → List Byte
  | .bufIn    => m.bufIn
  | .bufVal   => m.bufVal
  | .bufOut   => m.bufOut
  | .bufXaddr => m.bufXaddr

/-- A buffer replaced whole, the others as they are (10_state.md R23). -/
def Memory.set (m : Memory) (bytes : List Byte) : Buf → Memory
  | .bufIn    => { m with bufIn := bytes }
  | .bufVal   => { m with bufVal := bytes }
  | .bufOut   => { m with bufOut := bytes }
  | .bufXaddr => { m with bufXaddr := bytes }

/-- STATUS written. -/
def State.setStatus (s : State) (v : Byte) : State := { s with status := v }

/-- A buffer replaced whole. -/
def State.setBuffer (s : State) (b : Buf) (bytes : List Byte) : State := { s with mem := s.mem.set bytes b }

/-- The six header registers written. -/
def State.setHeader (s : State) (cls : ClassCode) (method : MethodCode) (length : Word16)
    (txid0 txid1 txid2 : Word32) : State :=
  { s with hClass := cls, hMethod := method, hLength := length, hTxid0 := txid0, hTxid1 := txid1, hTxid2 := txid2 }

/-- A_TYPE and A_LENGTH written. -/
def State.setAttribute (s : State) (name : NameId) (length : Word16) : State :=
  { s with aType := name, aLength := length }

/-- The host's pending actions replaced. -/
def State.setScript (s : State) (actions : List HostAction) : State := { s with script := actions }

/-- One more value read by the host. -/
def State.observe (s : State) (o : Observation) : State := { s with observed := s.observed ++ [o] }

/-- IN_LEN, register 12, 17 bits (10_state.md R28). -/
def State.inLen (s : State) : BitVec 17 := BitVec.ofNat 17 s.mem.bufIn.length

/-- VAL_LEN, register 13, 16 bits (10_state.md R28). -/
def State.valLen (s : State) : BitVec 16 := BitVec.ofNat 16 s.mem.bufVal.length

/-- OUT_LEN, register 14, 17 bits (10_state.md R28). -/
def State.outLen (s : State) : BitVec 17 := BitVec.ofNat 17 s.mem.bufOut.length

/-- XADDR_LEN, register 15, 4 bits (10_state.md R28). -/
def State.xaddrLen (s : State) : BitVec 4 := BitVec.ofNat 4 s.mem.bufXaddr.length

/-- `TXID`, the 96-bit transaction id (10_state.md R18). -/
def State.txid (s : State) : TxId := s.hTxid0 ++ s.hTxid1 ++ s.hTxid2

end Sys2Proof.Machine
end

