-- ==== Sys2Proof/Machine/AttributeCodec.lean ====
section
/-! DEFINITION. Machine/AttributeCodec.lean: the attribute codec's pure functions (41_attribute.md). -/

namespace Sys2Proof.Machine

/-- The Attribute record (00_scope.md R9): the type as a name id, the declared length, the unpadded value, whose
actual length may differ (10_state.md R20). -/
structure Attribute where
  name   : NameId
  length : Word16
  value  : List Byte
  deriving DecidableEq, Repr

/-- The address family of a Transport Address (10_state.md R21). -/
inductive Family where
  | ipv4
  | ipv6
  deriving DecidableEq, Repr

/-- The Transport Address record (00_scope.md R9): the address is the ASCII string (10_state.md R27). -/
structure TransportAddress where
  family  : Family
  address : List Byte
  port    : Word16
  deriving DecidableEq, Repr

/-- The number `P` of padding bytes of a value of length `L` (30_encoding.md R73). -/
def padCount (length : Nat) : Nat := (padAlign - length % padAlign) % padAlign

/-- `parseAttribute` (41_attribute.md R113): truncation is tested before the type is resolved; bytes at index
`4 + L` and beyond are not read. -/
def parseAttribute (c : Config) (w : List Byte) : Except Err Attribute :=
  if w.length < tlvHdrLen then .error .attrTrunc
  else
    let code := field w 0 2
    let length := field w 2 4
    if w.length < tlvHdrLen + length then .error .attrTrunc
    else
      match nameForCode c.registry (BitVec.ofNat 16 code) with
      | none => .error .unknownType
      | some name =>
        .ok { name := name
              length := BitVec.ofNat 16 length
              value := slice w tlvHdrLen (tlvHdrLen + length) }

/-- `generateAttribute` (41_attribute.md R115): the length test comes before the name test. -/
def generateAttribute (c : Config) (a : Attribute) : Except Err (List Byte) :=
  if a.value.length ≠ a.length.toNat then .error .lenMismatch
  else
    match codeForName c.registry a.name with
    | none => .error .unknownName
    | some code => do
      let type ← numberToBytes code.toNat 2
      let length ← numberToBytes a.length.toNat 2
      .ok (type ++ length ++ a.value ++ List.replicate (padCount a.length.toNat) 0x00#8)

/-- The byte "." (41_attribute.md R118). -/
def dot : Byte := 0x2E#8

/-- A byte of '0' to '9' (41_attribute.md R118). -/
def isDigit (b : Byte) : Bool := decide (0x30 ≤ b.toNat) && decide (b.toNat ≤ 0x39)

/-- Cuts a byte sequence at every dot (41_attribute.md R118); `n` dots give `n + 1` fields. -/
def splitDots : List Byte → List (List Byte)
  | [] => [[]]
  | b :: bs =>
    if b = dot then [] :: splitDots bs
    else
      match splitDots bs with
      | [] => [[b]]
      | f :: fs => (b :: f) :: fs

/-- The decimal value of a run of ASCII digits, leading zeros allowed (41_attribute.md R118). -/
def decimalValue (f : List Byte) : Nat := f.foldl (fun n b => 10 * n + (b.toNat - 0x30)) 0

/-- One field of a dotted quad: 1 to 3 digits, at most 255 (41_attribute.md R118); a larger number is never cut to
8 bits (93_implementation_defined.md U21). -/
def parseOctet (f : List Byte) : Option Byte :=
  if f.length < 1 ∨ 3 < f.length then none
  else if f.all isDigit = false then none
  else if 255 < decimalValue f then none
  else some (BitVec.ofNat 8 (decimalValue f))

/-- The four octets of an IPv4 address. -/
structure Octets where
  o0 : Byte
  o1 : Byte
  o2 : Byte
  o3 : Byte
  deriving DecidableEq, Repr

/-- `parseDottedQuad` (41_attribute.md R118): exactly four fields, each an octet. -/
def parseDottedQuad (s : List Byte) : Option Octets :=
  match splitDots s with
  | [f0, f1, f2, f3] =>
    match parseOctet f0, parseOctet f1, parseOctet f2, parseOctet f3 with
    | some o0, some o1, some o2, some o3 => some { o0 := o0, o1 := o1, o2 := o2, o3 := o3 }
    | _, _, _, _ => none
  | _ => none

/-- The XOR of the four octets with the four cookie bytes, in order (41_attribute.md R119). -/
def xorOctets (o : Octets) : List Byte := List.zipWith (· ^^^ ·) [o.o0, o.o1, o.o2, o.o3] magicBytes

/-- `generateXorMappedAddress` (41_attribute.md R119): the family test comes before the format test; the
transaction id is no input (90_conflicts.md C3). -/
def generateXorMappedAddress (a : TransportAddress) : Except Err (List Byte) :=
  match a.family with
  | .ipv6 => .error .ipv6
  | .ipv4 =>
    match parseDottedQuad a.address with
    | none => .error .addrFormat
    | some o => do
      let xport ← numberToBytes (a.port ^^^ magicHigh).toNat 2
      .ok ([0x00#8, familyIpv4Byte] ++ xport ++ xorOctets o)

/-- `removePadding` (41_attribute.md R122): scans backward over zero bytes, stopping at the first other byte. -/
def removePadding (b : List Byte) : List Byte := (b.reverse.dropWhile (· == 0x00#8)).reverse

end Sys2Proof.Machine
end

