-- ==== Sys2Proof/Machine/HeaderCodec.lean ====
section
/-! DEFINITION. Machine/HeaderCodec.lean: the header codec's pure functions (42_header.md). -/

namespace Sys2Proof.Machine

/-- The Header record (00_scope.md R9; 42_header.md R144). -/
structure Header where
  cls           : ClassCode
  method        : MethodCode
  length        : Word16
  transactionId : TxId
  deriving DecidableEq, Repr

/-- Word `k` of a transaction id, `k` = 0, 1, 2 (10_state.md R18; 42_header.md R148). -/
def txidWord (t : TxId) (k : Nat) : Word32 := t.extractLsb' (32 * (2 - k)) 32

/-- `parseHeader` (42_header.md R144), its tests in the order of R145: window, cookie, reserved bits, method. -/
def parseHeader (c : Config) (w : List Byte) : Except Err Header :=
  if w.length < hdrLen then .error .shortHdr
  else if field w 4 8 ≠ magic.toNat then .error .badCookie
  else
    let t := unpackType c.typeLayout (w.getD 0 0#8) (w.getD 1 0#8)
    if t.reserved ≠ 0#2 then .error .reservedBits
    else if t.method ≠ methodBinding then .error .unsupMethod
    else
      .ok { cls := t.cls
            method := t.method
            length := BitVec.ofNat 16 (field w 2 4)
            transactionId := BitVec.ofNat 96 (field w 8 20) }

/-- `generateHeader` (42_header.md R147 to R149): 20 bytes, the length as given. -/
def generateHeader (c : Config) (h : Header) : Except Err (List Byte) :=
  if h.method ≠ methodBinding then .error .unsupMethod
  else do
    let type ← packType c.typeLayout h.cls h.method
    let length ← numberToBytes h.length.toNat 2
    let cookie ← numberToBytes magic.toNat 4
    let word0 ← numberToBytes (txidWord h.transactionId 0).toNat 4
    let word1 ← numberToBytes (txidWord h.transactionId 1).toNat 4
    let word2 ← numberToBytes (txidWord h.transactionId 2).toNat 4
    .ok (type ++ length ++ cookie ++ word0 ++ word1 ++ word2)

end Sys2Proof.Machine
end

