-- ==== Sys2Proof/Machine/Operands.lean ====
section
/-! DEFINITION. Machine/Operands.lean: the operands of the commands. All are implicit (30_encoding.md R78): a window,
a Header, an Attribute or a Transport Address read from fixed registers and buffers (10_state.md R33). -/

namespace Sys2Proof.Machine

/-- The window of PARSEHDR and PARSEATTR: `IN[0 : IN_LEN]` (10_state.md R24). -/
def windowOperand (s : State) : List Byte := s.mem.bufIn

/-- The window of a row of format MSGTYPE16 or ATTRTYPE16: IN with the row's word as its first two bytes (log
entries 8 and 9). Where IN already begins with the word it is IN itself. -/
def wordWindow (word : Word16) (s : State) : List Byte := fieldBytes word ++ s.mem.bufIn.drop 2

/-- The Header record of GENHDR (42_header.md R150). -/
def headerOperand (s : State) : Header :=
  { cls := s.hClass, method := s.hMethod, length := s.hLength, transactionId := s.txid }

/-- The Attribute record of GENATTR (41_attribute.md R116). -/
def attributeOperand (s : State) : Attribute :=
  { name := s.aType, length := s.aLength, value := s.mem.bufVal }

/-- The family that X_FAMILY holds (10_state.md R21). -/
def familyOf (x : BitVec 1) : Family := if x = 0#1 then .ipv4 else .ipv6

/-- The Transport Address of GENXMA (41_attribute.md R120). -/
def addressOperand (s : State) : TransportAddress :=
  { family := familyOf s.xFamily, address := s.mem.bufXaddr, port := s.xPort }

/-- The bytes RMPAD strips: `VAL[0 : VAL_LEN]` (41_attribute.md R123). -/
def valueOperand (s : State) : List Byte := s.mem.bufVal

end Sys2Proof.Machine
end

