-- ==== Sys2Proof/Machine/Ops.lean ====
section
/-! DEFINITION. Machine/Ops.lean: the shared operations over registers and buffers: raising an error, completing a
command, `MemWrite`, and the host's register and buffer accesses. -/

namespace Sys2Proof.Machine

/-- `raise E` (60_exceptions.md R176): the unit's one way of taking an exception. STATUS takes the code, nothing else
changes, nothing is saved, no mode changes and control goes nowhere. There is no return from it (R177). -/
def raise (e : Err) (s : State) : Result := .next (s.setStatus (errCode e))

/-- The end of a command that raised nothing: STATUS becomes `OK` as its last act (00_scope.md R7; 10_state.md R13). -/
def succeed (s : State) : Result := .next (s.setStatus statusOk)

/-- The end of a command whose last result is a whole buffer: `MemWrite(B, bytes)` and STATUS `OK`, together
(00_scope.md R7; 20_memory.md R47). A write over the capacity is refused (20_memory.md R52). -/
def succeedWriting (c : Config) (b : Buf) (bytes : List Byte) (s : State) : Result :=
  if bytes.length ≤ capacity c b then succeed (s.setBuffer b bytes) else .refused (.bufferOverflow b)

/-- The width of a register in bits (10_state.md R11). -/
def regWidth : Reg → Nat
  | .cmd => 8
  | .status => 8
  | .hClass => 2
  | .hMethod => 12
  | .hLength => 16
  | .hTxid0 => 32
  | .hTxid1 => 32
  | .hTxid2 => 32
  | .aType => 4
  | .aLength => 16
  | .xFamily => 1
  | .xPort => 16
  | .inLen => 17
  | .valLen => 16
  | .outLen => 17
  | .xaddrLen => 4

/-- The value a host read of a register returns; none for CMD, which cannot be read (10_state.md R11, R14). -/
def readReg (s : State) : Reg → Option Nat
  | .cmd => none
  | .status => some s.status.toNat
  | .hClass => some s.hClass.toNat
  | .hMethod => some s.hMethod.toNat
  | .hLength => some s.hLength.toNat
  | .hTxid0 => some s.hTxid0.toNat
  | .hTxid1 => some s.hTxid1.toNat
  | .hTxid2 => some s.hTxid2.toNat
  | .aType => some s.aType.toNat
  | .aLength => some s.aLength.toNat
  | .xFamily => some s.xFamily.toNat
  | .xPort => some s.xPort.toNat
  | .inLen => some s.inLen.toNat
  | .valLen => some s.valLen.toNat
  | .outLen => some s.outLen.toNat
  | .xaddrLen => some s.xaddrLen.toNat

/-- The state after a host write of a register the host may write, registers 2 to 11; none for the others
(10_state.md R11, R34). The value is one of the register's width. -/
def writeReg (s : State) (value : Nat) : Reg → Option State
  | .hClass => some { s with hClass := BitVec.ofNat 2 value }
  | .hMethod => some { s with hMethod := BitVec.ofNat 12 value }
  | .hLength => some { s with hLength := BitVec.ofNat 16 value }
  | .hTxid0 => some { s with hTxid0 := BitVec.ofNat 32 value }
  | .hTxid1 => some { s with hTxid1 := BitVec.ofNat 32 value }
  | .hTxid2 => some { s with hTxid2 := BitVec.ofNat 32 value }
  | .aType => some { s with aType := BitVec.ofNat 4 value }
  | .aLength => some { s with aLength := BitVec.ofNat 16 value }
  | .xFamily => some { s with xFamily := BitVec.ofNat 1 value }
  | .xPort => some { s with xPort := BitVec.ofNat 16 value }
  | .cmd => none
  | .status => none
  | .inLen => none
  | .valLen => none
  | .outLen => none
  | .xaddrLen => none

/-- A host write of a scalar register other than CMD (10_state.md R34): refused where the host has no right to it, and
where the value does not fit the register. -/
def hostSet (r : Reg) (value : Nat) (s : State) : Result :=
  match writeReg s value r with
  | none => .refused (.writeForbidden r)
  | some s' => if value < 2 ^ regWidth r then .next s' else .refused (.valueTooWide r)

/-- A host load of a whole buffer (20_memory.md R56): OUT has none, and a load over the capacity is refused
(10_state.md R34). -/
def hostLoad (c : Config) (b : Buf) (bytes : List Byte) (s : State) : Result :=
  if b = .bufOut then .refused (.loadForbidden b)
  else if bytes.length ≤ capacity c b then .next (s.setBuffer b bytes)
  else .refused (.loadTooLong b)

/-- A host read of a register; it has no side effect on the unit (20_memory.md R48). -/
def hostRead (r : Reg) (s : State) : Result :=
  match readReg s r with
  | none => .refused (.readForbidden r)
  | some v => .next (s.observe (.reg r v))

/-- `RDBUF` (30_encoding.md R81): the length and all bytes of a buffer. -/
def hostReadBuffer (b : Buf) (s : State) : Result :=
  .next (s.observe (.buffer b (s.mem.get b).length (s.mem.get b)))

/-- `ReadBuf(B, i)` (20_memory.md R56); at or beyond the length there is no byte (10_state.md R34). -/
def hostReadByte (b : Buf) (index : Nat) (s : State) : Result :=
  match (s.mem.get b)[index]? with
  | none => .refused (.readBeyond b)
  | some v => .next (s.observe (.byte b index v))

/-- `CHK` (30_encoding.md R81): the host reads STATUS and ends its script unless it is `OK`. -/
def hostCheck (s : State) : Result :=
  let t := s.observe (.reg .status s.status.toNat)
  if s.status = statusOk then .next t else .next (t.setScript [])

/-- `DROP` (30_encoding.md R82): the host ends its script. -/
def hostDrop (s : State) : Result := .next (s.setScript [])

/-- The platform's reset (70_reset_and_hazards.md R200): the unit's state is the reset state; the host keeps its
script and what it has read. -/
def platformReset (s : State) : Result :=
  .next { State.reset with script := s.script, observed := s.observed }

end Sys2Proof.Machine
end

