-- ==== Sys2Proof/Machine/AttributeCommands.lean ====
section
/-! DEFINITION. Machine/AttributeCommands.lean: the commands of the attribute codec (41_attribute.md). The functions
ending in `With` are for any configuration; the meanings take the unit's. -/

namespace Sys2Proof.Machine

/-- PARSEATTR on a window (41_attribute.md R114): A_TYPE, A_LENGTH and VAL on success, STATUS alone on an error. -/
def parseattrWith (c : Config) (w : List Byte) (s : State) : Result :=
  match parseAttribute c w with
  | .error e => raise e s
  | .ok a => succeedWriting c .bufVal a.value (s.setAttribute a.name a.length)

/-- GENATTR (41_attribute.md R116): OUT on success, STATUS alone on an error. -/
def genattrWith (c : Config) (s : State) : Result :=
  match generateAttribute c (attributeOperand s) with
  | .error e => raise e s
  | .ok bytes => succeedWriting c .bufOut bytes s

/-- GENXMA (41_attribute.md R120): VAL on success, STATUS alone on an error; A_TYPE and A_LENGTH stay. -/
def genxmaWith (c : Config) (s : State) : Result :=
  match generateXorMappedAddress (addressOperand s) with
  | .error e => raise e s
  | .ok bytes => succeedWriting c .bufVal bytes s

/-- RMPAD (41_attribute.md R123): VAL in place; A_LENGTH stays. -/
def rmpadWith (c : Config) (s : State) : Result :=
  succeedWriting c .bufVal (removePadding (valueOperand s)) s

/-- PARSEATTR, opcode 0x03 (41_attribute.md R114). -/
def execParseattr (s : State) : Result := parseattrWith unitConfig (windowOperand s) s

/-- GENATTR, opcode 0x04 (41_attribute.md R116). -/
def execGenattr (s : State) : Result := genattrWith unitConfig s

/-- GENXMA, opcode 0x05 (41_attribute.md R120). -/
def execGenxma (s : State) : Result := genxmaWith unitConfig s

/-- RMPAD, opcode 0x06 (41_attribute.md R123). -/
def execRmpad (s : State) : Result := rmpadWith unitConfig s

end Sys2Proof.Machine
end

