-- ==== Sys2Proof/Machine/AttributeTypeWords.lean ====
section
/-! DEFINITION. Machine/AttributeTypeWords.lean: the rows of format ATTRTYPE16 (30_encoding.md R75, R76, R84). Such a
word is read by the attribute decoder from bytes 0 to 1 of a window, so its meaning is what PARSEATTR does on the
window IN with this type field (DEDUCED, log entry 9). -/

namespace Sys2Proof.Machine

/-- The attribute decoder on IN with a type code. -/
def attributeWord (code : Word16) (s : State) : Result := parseattrWith unitConfig (wordWindow code s) s

/-- Type MAPPED-ADDRESS, name id 0 (30_encoding.md R75). -/
def execMappedAddress (s : State) : Result := attributeWord (rowCode unitConfig 0#4) s

/-- Type USERNAME, name id 1 (30_encoding.md R75). -/
def execUsername (s : State) : Result := attributeWord (rowCode unitConfig 1#4) s

/-- Type MESSAGE-INTEGRITY, name id 2 (30_encoding.md R75). -/
def execMessageIntegrity (s : State) : Result := attributeWord (rowCode unitConfig 2#4) s

/-- Type ERROR-CODE, name id 3 (30_encoding.md R75). -/
def execErrorCode (s : State) : Result := attributeWord (rowCode unitConfig 3#4) s

/-- Type UNKNOWN-ATTRIBUTES, name id 4 (30_encoding.md R75). -/
def execUnknownAttributes (s : State) : Result := attributeWord (rowCode unitConfig 4#4) s

/-- Type REALM, name id 5 (30_encoding.md R75). -/
def execRealm (s : State) : Result := attributeWord (rowCode unitConfig 5#4) s

/-- Type NONCE, name id 6 (30_encoding.md R75). -/
def execNonce (s : State) : Result := attributeWord (rowCode unitConfig 6#4) s

/-- Type XOR-MAPPED-ADDRESS, name id 7 (30_encoding.md R75). -/
def execXorMappedAddress (s : State) : Result := attributeWord (rowCode unitConfig 7#4) s

/-- A type code (30_encoding.md R76): `E_UNKNOWN_TYPE` for every code the registry does not hold, once the window is
long enough (60_exceptions.md R172). -/
def execUnknown (code : Word16) (s : State) : Result := attributeWord code s

end Sys2Proof.Machine
end

