-- ==== Sys2Proof/Machine/HeaderCommands.lean ====
section
/-! DEFINITION. Machine/HeaderCommands.lean: the commands of the header codec (42_header.md). The functions ending in
`With` are for any configuration; the meanings take the unit's. -/

namespace Sys2Proof.Machine

/-- PARSEHDR on a window (42_header.md R146): the six H registers on success, STATUS alone on an error. -/
def parsehdrWith (c : Config) (w : List Byte) (s : State) : Result :=
  match parseHeader c w with
  | .error e => raise e s
  | .ok h =>
    succeed (s.setHeader h.cls h.method h.length (BitVec.ofNat 32 (field w 8 12))
      (BitVec.ofNat 32 (field w 12 16)) (BitVec.ofNat 32 (field w 16 20)))

/-- GENHDR (42_header.md R150): OUT on success, STATUS alone on an error. -/
def genhdrWith (c : Config) (s : State) : Result :=
  match generateHeader c (headerOperand s) with
  | .error e => raise e s
  | .ok bytes => succeedWriting c .bufOut bytes s

/-- PARSEHDR, opcode 0x01 (42_header.md R146). -/
def execParsehdr (s : State) : Result := parsehdrWith unitConfig (windowOperand s) s

/-- GENHDR, opcode 0x02 (42_header.md R150). -/
def execGenhdr (s : State) : Result := genhdrWith unitConfig s

end Sys2Proof.Machine
end

