-- ==== Sys2Proof/Machine/IllegalCommand.lean ====
section
/-! DEFINITION. Machine/IllegalCommand.lean: the illegal command (30_encoding.md R80; 60_exceptions.md R175). -/

namespace Sys2Proof.Machine

/-- A CMD value that selects no command: `raise E_ILLEGAL_CMD`, whatever the value (60_exceptions.md R175). -/
def execIllegal (_opcode : Byte) (s : State) : Result := raise .illegalCmd s

end Sys2Proof.Machine
end

