-- ==== Sys2Proof/Machine/MessageTypeWords.lean ====
section
/-! DEFINITION. Machine/MessageTypeWords.lean: the rows of format MSGTYPE16 (30_encoding.md R61, R67, R84). Such a word
is read by the header decoder from bytes 0 to 1 of a window, so its meaning is what PARSEHDR does on the window IN
with this message-type field (DEDUCED, log entry 8). -/

namespace Sys2Proof.Machine

/-- The header decoder on IN with the message-type field of a class and a method. -/
def headerWord (cls : ClassCode) (method : MethodCode) (s : State) : Result :=
  parsehdrWith unitConfig (wordWindow (scatterType unitConfig.typeLayout cls method) s) s

/-- Message type 0x0001, Binding Request (30_encoding.md R67). -/
def execBindingRequest (s : State) : Result := headerWord 0b00#2 methodBinding s

/-- Message type 0x0011, Binding Indication (30_encoding.md R67). -/
def execBindingIndication (s : State) : Result := headerWord 0b01#2 methodBinding s

/-- Message type 0x0101, Binding Success (30_encoding.md R67). -/
def execBindingSuccess (s : State) : Result := headerWord 0b10#2 methodBinding s

/-- Message type 0x0111, Binding Error (30_encoding.md R67). -/
def execBindingError (s : State) : Result := headerWord 0b11#2 methodBinding s

/-- Any message type whose reserved bits are zero (30_encoding.md R61): accepted exactly when the method is Binding. -/
def execMsgtype (cls : ClassCode) (method : MethodCode) (s : State) : Result := headerWord cls method s

end Sys2Proof.Machine
end

