-- ==== Sys2Proof/Machine/Dispatch.lean ====
section
/-! DEFINITION. Machine/Dispatch.lean: one arm per row of the opcode table. -/

namespace Sys2Proof.Machine

def exec (i : Instr) (s : State) : Host.Outcome State Fault Refusal :=
  match i with
  -- format CMD8
  | .parsehdr => Sys2Proof.Machine.execParsehdr s
  | .genhdr => Sys2Proof.Machine.execGenhdr s
  | .parseattr => Sys2Proof.Machine.execParseattr s
  | .genattr => Sys2Proof.Machine.execGenattr s
  | .genxma => Sys2Proof.Machine.execGenxma s
  | .rmpad => Sys2Proof.Machine.execRmpad s
  | .illegal opcode => Sys2Proof.Machine.execIllegal opcode s
  -- format MSGTYPE16
  | .bindingRequest => Sys2Proof.Machine.execBindingRequest s
  | .bindingIndication => Sys2Proof.Machine.execBindingIndication s
  | .bindingSuccess => Sys2Proof.Machine.execBindingSuccess s
  | .bindingError => Sys2Proof.Machine.execBindingError s
  | .msgtype cls method => Sys2Proof.Machine.execMsgtype cls method s
  -- format ATTRTYPE16
  | .mappedAddress => Sys2Proof.Machine.execMappedAddress s
  | .username => Sys2Proof.Machine.execUsername s
  | .messageIntegrity => Sys2Proof.Machine.execMessageIntegrity s
  | .errorCode => Sys2Proof.Machine.execErrorCode s
  | .unknownAttributes => Sys2Proof.Machine.execUnknownAttributes s
  | .realm => Sys2Proof.Machine.execRealm s
  | .nonce => Sys2Proof.Machine.execNonce s
  | .xorMappedAddress => Sys2Proof.Machine.execXorMappedAddress s
  | .unknown code => Sys2Proof.Machine.execUnknown code s

end Sys2Proof.Machine
end

