-- ==== Sys2Proof/Machine/HostPort.lean ====
section
/-! DEFINITION. Machine/HostPort.lean: the host's actions on the unit, one a step (10_state.md R10, R34; 20_memory.md
R53), and how a word of the opcode table is placed where the next step reads it. -/

namespace Sys2Proof.Machine

/-- A write of an 8-bit value to CMD: the command it selects is executed, completely and at once (10_state.md R14). -/
def writeCmd (value : Byte) (s : State) : Result := exec (commandOf value) s

/-- A write of a register by number or name: CMD is the command port (10_state.md R11, R14; DEDUCED, log entry
11), the others are stored (10_state.md R34). -/
def hostWrite (r : Reg) (value : Nat) (s : State) : Result :=
  match r with
  | .cmd => if value < 2 ^ regWidth .cmd then writeCmd (BitVec.ofNat 8 value) s else .refused (.valueTooWide .cmd)
  | r => hostSet r value s

/-- One action of the outside world (10_state.md R34; 30_encoding.md R81; 70_reset_and_hazards.md R201). -/
def perform (a : HostAction) (s : State) : Result :=
  match a with
  | .set r value => hostWrite r value s
  | .load b bytes => hostLoad unitConfig b bytes s
  | .cmd value => writeCmd value s
  | .chk => hostCheck s
  | .rd r => hostRead r s
  | .rdbuf b => hostReadBuffer b s
  | .readByte b index => hostReadByte b index s
  | .drop => hostDrop s
  | .reset => platformReset s

/-- One step: the host's next pending action, taken off the script before it is performed. With none pending the unit
waits for the next CMD write and nothing changes (10_state.md R12; log entry 6). -/
def stepAction (s : State) : Result :=
  match s.script with
  | [] => .next s
  | a :: rest => perform a (s.setScript rest)

/-- The bytes of a window, with zeros where it is too short (only for placing a word, log entry 10). -/
def fieldOrZeros (w : List Byte) (a n : Nat) : List Byte := (w.drop a ++ List.replicate n 0x00#8).take n

/-- A header window that begins with a message-type word and that PARSEHDR reads as far as that word: at least 20
bytes and the magic cookie (42_header.md R145); every other byte as in the window given. -/
def windowForMessageType (word : Word16) (w : List Byte) : List Byte :=
  fieldBytes word ++ fieldOrZeros w 2 2 ++ magicBytes ++ fieldOrZeros w 8 12 ++ w.drop 20

/-- An attribute window that begins with a type word and that PARSEATTR reads as far as that word: the window given
where it holds a whole attribute, else one of length 0 (41_attribute.md R113). -/
def windowForAttributeType (word : Word16) (w : List Byte) : List Byte :=
  if tlvHdrLen ≤ w.length ∧ tlvHdrLen + field w 2 4 ≤ w.length then fieldBytes word ++ w.drop 2
  else fieldBytes word ++ [0x00#8, 0x00#8]

/-- A table word placed where the next step reads it, numbered as the opcode table numbers it (log entry 10): a
command word as the next CMD write; a 16-bit word in bytes 0 to 1 of IN, with the parsing command that reads it as
the next CMD write. -/
def placeWord (s : State) (nbits w : Nat) : State :=
  if nbits = 8 then s.setScript (.cmd (BitVec.ofNat 8 w) :: s.script)
  else
    let word : Word16 := BitVec.ofNat 16 w
    match tableFormat16 word with
    | .attrType16 =>
      (s.setBuffer .bufIn (windowForAttributeType word s.mem.bufIn)).setScript (.cmd 0x03#8 :: s.script)
    | _ => (s.setBuffer .bufIn (windowForMessageType word s.mem.bufIn)).setScript (.cmd 0x01#8 :: s.script)

end Sys2Proof.Machine
end

