-- ==== Sys2Proof/Machine/Step.lean ====
section
/-! DEFINITION. Machine/Step.lean: one step of the machine, and placing a table word for the next step. -/

namespace Sys2Proof.Machine

/-- One step: one action of the host, a command among them, or waiting (10_state.md R10, R12; 20_memory.md R53). -/
def step (s : State) : Host.Outcome State Fault Refusal := stepAction s

/-- The state in which the next step reads the table word `w` of `nbits` bits (log entry 10). -/
def State.withFetchWord (s : State) (nbits w : Nat) : State := placeWord s nbits w

end Sys2Proof.Machine
end

