-- ==== Sys2Proof/Machine/Script.lean ====
section
/-! DEFINITION. Machine/Script.lean: the script notation of the host, the unit's "assembly" (30_encoding.md R81 to
R83): names and numbers of registers, symbolic values, pseudo-actions, and reading a script's text. -/

namespace Sys2Proof.Machine

/-- The registers in the order of their numbers, 0 to 15 (10_state.md R11). -/
def regOrder : List Reg :=
  [.cmd, .status, .hClass, .hMethod, .hLength, .hTxid0, .hTxid1, .hTxid2, .aType, .aLength, .xFamily, .xPort,
    .inLen, .valLen, .outLen, .xaddrLen]

/-- The register names in the same order (30_encoding.md R83). -/
def regNames : List String :=
  ["CMD", "STATUS", "H_CLASS", "H_METHOD", "H_LENGTH", "H_TXID0", "H_TXID1", "H_TXID2", "A_TYPE", "A_LENGTH",
    "X_FAMILY", "X_PORT", "IN_LEN", "VAL_LEN", "OUT_LEN", "XADDR_LEN"]

/-- The register with a number (10_state.md R11). -/
def regOfNumber (n : Nat) : Option Reg := regOrder[n]?

/-- The number of a register (10_state.md R11). -/
def regNumber (r : Reg) : Nat := regOrder.idxOf r

/-- The register with a name (30_encoding.md R83). -/
def regOfName (name : String) : Option Reg := (regNames.idxOf? name).bind regOfNumber

/-- The buffer with a name (30_encoding.md R83). -/
def bufOfName (name : String) : Option Buf :=
  (["IN", "VAL", "OUT", "XADDR"].idxOf? name).bind ([Buf.bufIn, .bufVal, .bufOut, .bufXaddr][·]?)

/-- The eight attribute names in the order of their name ids (10_state.md R19). -/
def attributeNames : List String :=
  ["MAPPED-ADDRESS", "USERNAME", "MESSAGE-INTEGRITY", "ERROR-CODE", "UNKNOWN-ATTRIBUTES", "REALM", "NONCE",
    "XOR-MAPPED-ADDRESS"]

/-- The symbolic values `SET` accepts for a register (30_encoding.md R64, R83). -/
def symbolicValue (r : Reg) (name : String) : Option Nat :=
  match r with
  | .hClass => ["Request", "Indication", "Success", "Error"].idxOf? name
  | .hMethod => if name = "Binding" then some 0x001 else none
  | .aType => attributeNames.idxOf? name
  | .xFamily => ["ipv4", "ipv6"].idxOf? name
  | _ => none

/-- The opcode of a command mnemonic (30_encoding.md R79). -/
def opcodeOfMnemonic (name : String) : Option Byte :=
  (["PARSEHDR", "GENHDR", "PARSEATTR", "GENATTR", "GENXMA", "RMPAD"].idxOf? name).map
    (fun k => BitVec.ofNat 8 (k + 1))

/-! ### Pseudo-actions (30_encoding.md R82) -/

/-- `SETTXID`, for the three words of a transaction id. -/
def setTxid (w0 w1 w2 : Word32) : List HostAction :=
  [.set .hTxid0 w0.toNat, .set .hTxid1 w1.toNat, .set .hTxid2 w2.toNat]

/-- `MKRESP`: class Success, length 12 (43_message_flow.md R165). -/
def mkResp : List HostAction := [.set .hClass 2, .set .hLength 12]

/-- `XMAATTR`: GENXMA, CHK, A_TYPE 7, A_LENGTH 8, GENATTR. -/
def xmaAttr : List HostAction := [.cmd 0x05#8, .chk, .set .aType 7, .set .aLength 8, .cmd 0x04#8]

/-! ### Reading a script's text (30_encoding.md R81; log entry 19) -/

/-- The text of a line before its comment; a `;` between quotes starts none. -/
def stripComment (quoted : Bool) : List Char → List Char
  | [] => []
  | c :: cs =>
    if c = ';' ∧ quoted = false then []
    else c :: stripComment (if c = '"' then !quoted else quoted) cs

/-- A character that only separates words. -/
def isSeparator (c : Char) : Bool := c = ' ' || c = '\t' || c = ',' || c = '\r'

/-- The words of a line: `word` is the part read of the current one. -/
def wordsFrom (word : List Char) : List Char → List String
  | [] => if word = [] then [] else [String.ofList word]
  | c :: cs =>
    if isSeparator c then
      (if word = [] then wordsFrom [] cs else String.ofList word :: wordsFrom [] cs)
    else wordsFrom (word ++ [c]) cs

/-- The number a run of digits writes in a base, at least one digit. -/
def digitsValue (base : Nat) (ds : List Char) : Option Nat :=
  if ds = [] then none
  else
    ds.foldl (fun acc c =>
      match acc, hexValue c with
      | some n, some d => if d < base then some (base * n + d) else none
      | _, _ => none) (some 0)

/-- A number in `0x`, `0b` or decimal notation. -/
def numberOf (s : String) : Option Nat :=
  match s.toList with
  | '0' :: 'x' :: ds => digitsValue 16 ds
  | '0' :: 'b' :: ds => digitsValue 2 ds
  | ds => digitsValue 10 ds

/-- A register by name or number. -/
def regOf (s : String) : Option Reg :=
  match regOfName s with
  | some r => some r
  | none => (numberOf s).bind regOfNumber

/-- A byte of two hexadecimal digits. -/
def byteOf (s : String) : Option Byte :=
  match s.toList with
  | [a, b] =>
    match hexValue a, hexValue b with
    | some x, some y => some (BitVec.ofNat 8 (16 * x + y))
    | _, _ => none
  | _ => none

/-- A run of bytes, `-` for the empty one. -/
def bytesOf (ws : List String) : Option (List Byte) :=
  if ws = ["-"] then some []
  else if ws = [] then none
  else ws.mapM byteOf

/-- The ASCII bytes of the one quoted text that is all of a line after its first word (30_encoding.md R81). Anything
else before or after the text, a quote inside it, or a character outside ASCII gives none (DESIGN CHOICE, log entry
19): the spec gives such a line no meaning. -/
def quotedBytes (line : List Char) : Option (List Byte) :=
  let afterFirstWord := (line.dropWhile isSeparator).dropWhile (fun c => !isSeparator c)
  match afterFirstWord.dropWhile isSeparator with
  | '"' :: inside =>
    match inside.reverse.dropWhile isSeparator with
    | '"' :: reversed =>
      if reversed.all (fun c => decide (c.toNat < 128) && c != '"') then
        some (reversed.reverse.map (fun c => BitVec.ofNat 8 c.toNat))
      else none
    | _ => none
  | _ => none

/-- One line of a script: the actions it stands for, none for a line that is no line of the notation. A `SET`, `RD` or
load that R81 and R83 shut out by its register, value or length alone is read as the action it writes, which the unit
then refuses (DESIGN CHOICE, log entry 19). -/
def assembleLine (text : List Char) : Option (List HostAction) :=
  let line := stripComment false text
  match wordsFrom [] line with
  | [] => some []
  | "SET" :: r :: v :: [] =>
    match regOf r with
    | none => none
    | some reg => ((symbolicValue reg v).or (numberOf v)).map (fun n => [.set reg n])
  | "LDIN" :: ws => (bytesOf ws).map (fun s => [.load .bufIn s])
  | "LDVAL" :: ws => (bytesOf ws).map (fun s => [.load .bufVal s])
  | "LDADDR" :: ws => ((quotedBytes line).or (bytesOf ws)).map (fun s => [.load .bufXaddr s])
  | "CMD" :: v :: [] =>
    (numberOf v).bind (fun n => if n < 256 then some [.cmd (BitVec.ofNat 8 n)] else none)
  | "CHK" :: [] => some [.chk]
  | "RD" :: r :: [] => (regOf r).map (fun reg => [.rd reg])
  | "RDBUF" :: b :: [] => (bufOfName b).map (fun buf => [.rdbuf buf])
  | "SETTXID" :: h :: [] => (txidWordsOfHex h.toList).map (fun (a, b, c) => setTxid a b c)
  | "MKRESP" :: [] => some mkResp
  | "XMAATTR" :: [] => some xmaAttr
  | "DROP" :: [] => some [.drop]
  | m :: [] => (opcodeOfMnemonic m).map (fun op => [.cmd op])
  | _ => none

/-- A script: one line after another, in order. -/
def assemble : List String → Option (List HostAction)
  | [] => some []
  | line :: rest =>
    match assembleLine line.toList, assemble rest with
    | some a, some b => some (a ++ b)
    | _, _ => none

end Sys2Proof.Machine
end

