-- ==== Sys2Proof/Machine/Flow.lean ====
section
/-! DEFINITION. Machine/Flow.lean: the compositions of commands that 43_message_flow.md describes: the Binding
response and the attribute walk, each as a pure function and as what a host does with the unit. -/

namespace Sys2Proof.Machine

/-- The length of the response's payload (43_message_flow.md R165). -/
def responseLength : Word16 := 12#16

/-- `bindingResponse` (43_message_flow.md R161). It does not test that the request's class is Request. -/
def bindingResponse (c : Config) (datagram : List Byte) (addr : TransportAddress) : Except Err (List Byte) := do
  let h ← parseHeader c datagram
  let xma ← generateXorMappedAddress addr
  let attr ← generateAttribute c { name := 7#4, length := 8#16, value := xma }
  let hdr ← generateHeader c
    { cls := 0b10#2, method := h.method, length := responseLength, transactionId := h.transactionId }
  .ok (hdr ++ attr)

/-- The value of X_FAMILY for a family (10_state.md R21). -/
def familyBit : Family → Nat
  | .ipv4 => 0
  | .ipv6 => 1

/-- The same flow as a host script (43_message_flow.md R162). -/
def bindingScript (datagram : List Byte) (addr : TransportAddress) : List HostAction :=
  [.load .bufIn datagram, .cmd 0x01#8, .chk,
    .set .xFamily (familyBit addr.family), .load .bufXaddr addr.address, .set .xPort addr.port.toNat] ++
  xmaAttr ++ [.chk, .rdbuf .bufOut] ++ mkResp ++ [.cmd 0x02#8, .chk, .rdbuf .bufOut]

/-- The contents of OUT among what the host has read, in order. -/
def outReadings : List Observation → List (List Byte)
  | [] => []
  | .buffer .bufOut _ bytes :: rest => bytes :: outReadings rest
  | _ :: rest => outReadings rest

/-- The datagram the host sends after `bindingScript`: the header, which it read last, before the attribute
(43_message_flow.md R162); nothing where the flow ended without a response (R163). -/
def hostResponse (observed : List Observation) : Option (List Byte) :=
  match outReadings observed with
  | [attr, hdr] => some (hdr ++ attr)
  | _ => none

/-- How far the next attribute stands from this one (43_message_flow.md R164; 30_encoding.md R74). -/
def attributeAdvance (length : Nat) : Nat := tlvHdrLen + length + padCount length

/-- What a walk over a message body finds: the attributes in order, and the error that ended it, if any. -/
structure Walk where
  attributes : List Attribute
  error      : Option Err
  deriving DecidableEq, Repr

/-- The attribute walk over the bytes after the header (43_message_flow.md R164), as a pure function; `body` is what
is left from the current offset on, and `turns` bounds the number of turns. -/
def walkFrom (c : Config) : Nat → List Byte → Walk
  | 0, _ => { attributes := [], error := none }
  | turns + 1, body =>
    if body = [] then { attributes := [], error := none }
    else
      match parseAttribute c body with
      | .error e => { attributes := [], error := some e }
      | .ok a =>
        let rest := walkFrom c turns (body.drop (attributeAdvance a.length.toNat))
        { rest with attributes := a :: rest.attributes }

/-- The walk of a whole body: each turn consumes at least 4 bytes (43_message_flow.md R160), so as many turns as
there are bytes are enough. -/
def walkAttributes (c : Config) (body : List Byte) : Walk := walkFrom c body.length body

/-- The same walk by a host that loads IN, issues PARSEATTR and reads STATUS (43_message_flow.md R164): the
attributes it has seen and the unit's state at the end; nothing where an action is refused. -/
def walkByCommands : Nat → List Byte → State → Option (List Attribute × State)
  | 0, _, s => some ([], s)
  | turns + 1, body, s =>
    if body = [] then some ([], s)
    else
      match perform (.load .bufIn body) s with
      | .next s1 =>
        match perform (.cmd 0x03#8) s1 with
        | .next s2 =>
          if s2.status = statusOk then
            match walkByCommands turns (body.drop (attributeAdvance s2.aLength.toNat)) s2 with
            | some (seen, t) => some (attributeOperand s2 :: seen, t)
            | none => none
          else some ([], s2)
        | _ => none
      | _ => none

end Sys2Proof.Machine
end

