-- ==== Sys2Proof/Safety.lean ====
section
/-! DEFINITION. Safety.lean: what counts as a good state of the unit, and the notions the statements use. -/

namespace Sys2Proof

open Machine

/-- A state the unit can be in: every buffer within its capacity (10_state.md R23) and STATUS one of the values the
error table allows a command to leave (60_exceptions.md R171, R172). -/
def UnitInv (s : State) : Prop := s.mem.wf ∧ statusLegal s.status = true

/-- The length register of a buffer (10_state.md R28). -/
def lengthRegister : Buf → Reg
  | .bufIn    => .inLen
  | .bufVal   => .valLen
  | .bufOut   => .outLen
  | .bufXaddr => .xaddrLen

/-- A field of a dotted quad and its value, by the grammar of 41_attribute.md R118: one to three decimal digits of
value at most 255, each written as its ASCII byte. -/
def OctetField (f : List Byte) (value : Nat) : Prop :=
  ∃ ds : List Nat, 1 ≤ ds.length ∧ ds.length ≤ 3 ∧ (∀ d ∈ ds, d < 10) ∧ value = Nat.ofDigits 10 ds.reverse ∧
    value ≤ 255 ∧ f = ds.map (fun d => BitVec.ofNat 8 (0x30 + d))

/-- A dotted quad and its four octets, by the grammar of 41_attribute.md R118. -/
def DottedQuad (s : List Byte) (o0 o1 o2 o3 : Nat) : Prop :=
  ∃ f0 f1 f2 f3 : List Byte, OctetField f0 o0 ∧ OctetField f1 o1 ∧ OctetField f2 o2 ∧ OctetField f3 o3 ∧
    s = f0 ++ 0x2E#8 :: (f1 ++ 0x2E#8 :: (f2 ++ 0x2E#8 :: f3))

/-- A header window: two message-type bytes, two length bytes, the magic cookie, twelve transaction-id bytes, and
whatever follows (20_memory.md R49). -/
def headerWindow (b0 b1 l0 l1 : Byte) (t : Fin 12 → Byte) (rest : List Byte) : List Byte :=
  [b0, b1, l0, l1, 0x21#8, 0x12#8, 0xA4#8, 0x42#8] ++ List.ofFn t ++ rest

/-- An attribute window: two type bytes, two length bytes, and whatever follows (20_memory.md R50). -/
def attributeWindow (c0 c1 l0 l1 : Byte) (rest : List Byte) : List Byte := [c0, c1, l0, l1] ++ rest

/-- The state after PARSEHDR has taken a header of this class, length and transaction id (42_header.md R146). -/
def headerTaken (s : State) (cls : ClassCode) (l0 l1 : Byte) (t : Fin 12 → Byte) : State :=
  { s with
    status := 0x00#8
    hClass := cls
    hMethod := 0x001#12
    hLength := word16 l0 l1
    hTxid0 := word32 (t 0) (t 1) (t 2) (t 3)
    hTxid1 := word32 (t 4) (t 5) (t 6) (t 7)
    hTxid2 := word32 (t 8) (t 9) (t 10) (t 11) }

/-- The state after PARSEATTR has taken an attribute (41_attribute.md R114). -/
def attributeTaken (s : State) (name : NameId) (l0 l1 : Byte) (value : List Byte) : State :=
  { s with
    status := 0x00#8
    aType := name
    aLength := word16 l0 l1
    mem := { s.mem with bufVal := value } }

/-- The state after an error: STATUS alone has changed (60_exceptions.md R176). -/
def errorState (s : State) (code : Byte) : State := { s with status := code }

/-- The state after a command has written OUT (10_state.md R33). -/
def outWritten (s : State) (bytes : List Byte) : State :=
  { s with status := 0x00#8, mem := { s.mem with bufOut := bytes } }

/-- The state after a command has written VAL alone (10_state.md R33). -/
def valWritten (s : State) (bytes : List Byte) : State :=
  { s with status := 0x00#8, mem := { s.mem with bufVal := bytes } }

end Sys2Proof
end

