-- ==== Sys2Proof/Certificates/Slice0/Obligations.lean ====
section
/-! DEFINITION. Certificates/Slice0/Obligations.lean: the statements about the unit. Each docstring names the rules of
spec/ it formalises. "The unit's registry" is the default registry (log entry 3), the layout is RFC (log entry 2). -/

open Sys2Proof Sys2Proof.Machine

/-! ### Reset -/

/-- 10_state.md R32: the reset values. -/
def Obligations.ResetClearsEveryRegisterAndBuffer : Prop :=
  State.reset.status = 0x00#8 ∧ State.reset.hClass = 0b00#2 ∧ State.reset.hMethod = 0x000#12 ∧
  State.reset.hLength = 0x0000#16 ∧ State.reset.hTxid0 = 0#32 ∧ State.reset.hTxid1 = 0#32 ∧
  State.reset.hTxid2 = 0#32 ∧ State.reset.aType = 0x0#4 ∧ State.reset.aLength = 0x0000#16 ∧
  State.reset.xFamily = 0#1 ∧ State.reset.xPort = 0x0000#16 ∧
  (∀ b, State.reset.mem.get b = []) ∧
  State.reset.inLen = 0#17 ∧ State.reset.valLen = 0#16 ∧ State.reset.outLen = 0#17 ∧ State.reset.xaddrLen = 0#4 ∧
  readReg State.reset .cmd = none

/-- 70_reset_and_hazards.md R202: each command on the reset state. -/
def Obligations.CommandsOnTheResetState : Prop :=
  exec .parsehdr State.reset = .next (errorState State.reset 0x15#8) ∧
  exec .genhdr State.reset = .next (errorState State.reset 0x21#8) ∧
  exec .parseattr State.reset = .next (errorState State.reset 0x13#8) ∧
  exec .genattr State.reset = .next (outWritten State.reset [0x00#8, 0x01#8, 0x00#8, 0x00#8]) ∧
  exec .genxma State.reset = .next (errorState State.reset 0x31#8) ∧
  exec .rmpad State.reset = .next State.reset

/-- The invariant holds after reset. -/
def Obligations.ResetMeetsTheInvariant : Prop := UnitInv State.reset

/-! ### The six commands and the illegal one: what each writes, and when it raises which error -/

/-- 42_header.md R146 with R144 and R145: PARSEHDR takes a Binding header whatever its class, and otherwise raises the
first of its four errors, changing STATUS alone. -/
def Obligations.ParsehdrTakesTheHeaderOrRaisesItsFirstError : Prop :=
  ∀ s : State,
    (∀ b0 b1 l0 l1 t rest, s.mem.bufIn = headerWindow b0 b1 l0 l1 t rest →
      word16 b0 b1 &&& 0xFEEF#16 = 0x0001#16 →
      exec .parsehdr s = .next (headerTaken s (b0.extractLsb' 0 1 ++ b1.extractLsb' 4 1) l0 l1 t)) ∧
    (s.mem.bufIn.length < 20 → exec .parsehdr s = .next (errorState s 0x15#8)) ∧
    (20 ≤ s.mem.bufIn.length → (s.mem.bufIn.drop 4).take 4 ≠ [0x21#8, 0x12#8, 0xA4#8, 0x42#8] →
      exec .parsehdr s = .next (errorState s 0x12#8)) ∧
    (∀ b0 b1 l0 l1 t rest, s.mem.bufIn = headerWindow b0 b1 l0 l1 t rest → b0.extractLsb' 6 2 ≠ 0#2 →
      exec .parsehdr s = .next (errorState s 0x11#8)) ∧
    (∀ b0 b1 l0 l1 t rest, s.mem.bufIn = headerWindow b0 b1 l0 l1 t rest → b0.extractLsb' 6 2 = 0#2 →
      word16 b0 b1 &&& 0xFEEF#16 ≠ 0x0001#16 →
      exec .parsehdr s = .next (errorState s 0x21#8))

/-- 42_header.md R150 with R147 to R149: GENHDR writes the twenty bytes of the header registers when the method is
Binding, and raises `E_UNSUP_METHOD` otherwise. -/
def Obligations.GenhdrBuildsTheHeaderOrRaises : Prop :=
  ∀ s : State,
    (s.hMethod = 0x001#12 →
      exec .genhdr s = .next (outWritten s
        [0#7 ++ s.hClass.extractLsb' 1 1, 0#3 ++ s.hClass.extractLsb' 0 1 ++ 1#4,
          s.hLength.extractLsb' 8 8, s.hLength.extractLsb' 0 8, 0x21#8, 0x12#8, 0xA4#8, 0x42#8,
          s.hTxid0.extractLsb' 24 8, s.hTxid0.extractLsb' 16 8, s.hTxid0.extractLsb' 8 8, s.hTxid0.extractLsb' 0 8,
          s.hTxid1.extractLsb' 24 8, s.hTxid1.extractLsb' 16 8, s.hTxid1.extractLsb' 8 8, s.hTxid1.extractLsb' 0 8,
          s.hTxid2.extractLsb' 24 8, s.hTxid2.extractLsb' 16 8, s.hTxid2.extractLsb' 8 8,
          s.hTxid2.extractLsb' 0 8])) ∧
    (s.hMethod ≠ 0x001#12 → exec .genhdr s = .next (errorState s 0x21#8))

/-- 41_attribute.md R114 with R113: PARSEATTR takes an attribute of the unit's registry, whatever follows its value, and
otherwise raises truncation before unknown type. -/
def Obligations.ParseattrTakesTheAttributeOrRaisesItsFirstError : Prop :=
  ∀ s : State,
    (∀ c0 c1 l0 l1 value rest name, s.mem.bufIn = attributeWindow c0 c1 l0 l1 (value ++ rest) →
      value.length = (word16 l0 l1).toNat →
      { code := word16 c0 c1, name := name } ∈ unitConfig.registry →
      exec .parseattr s = .next (attributeTaken s name l0 l1 value)) ∧
    (s.mem.bufIn.length < 4 → exec .parseattr s = .next (errorState s 0x13#8)) ∧
    (∀ c0 c1 l0 l1 rest, s.mem.bufIn = attributeWindow c0 c1 l0 l1 rest → rest.length < (word16 l0 l1).toNat →
      exec .parseattr s = .next (errorState s 0x13#8)) ∧
    (∀ c0 c1 l0 l1 rest, s.mem.bufIn = attributeWindow c0 c1 l0 l1 rest → (word16 l0 l1).toNat ≤ rest.length →
      (∀ name, { code := word16 c0 c1, name := name } ∉ unitConfig.registry) →
      exec .parseattr s = .next (errorState s 0x22#8))

/-- 41_attribute.md R116 with R115: GENATTR writes type code, length, value and zero padding to a multiple of 4; it
raises length mismatch before unknown name. -/
def Obligations.GenattrBuildsTheAttributeOrRaisesItsFirstError : Prop :=
  ∀ s : State,
    (∀ code, s.mem.bufVal.length = s.aLength.toNat → { code := code, name := s.aType } ∈ unitConfig.registry →
      exec .genattr s = .next (outWritten s
        ([code.extractLsb' 8 8, code.extractLsb' 0 8, s.aLength.extractLsb' 8 8, s.aLength.extractLsb' 0 8] ++
          s.mem.bufVal ++ List.replicate ((4 - s.aLength.toNat % 4) % 4) 0x00#8))) ∧
    (s.mem.bufVal.length ≠ s.aLength.toNat → exec .genattr s = .next (errorState s 0x14#8)) ∧
    (s.mem.bufVal.length = s.aLength.toNat → 8 ≤ s.aType.toNat → exec .genattr s = .next (errorState s 0x23#8))

/-- 41_attribute.md R120 with R118 and R119: GENXMA writes the eight bytes for a dotted quad, raises `E_IPV6` for the
family ipv6 whatever XADDR holds, and `E_ADDR_FORMAT` for everything outside the grammar. -/
def Obligations.GenxmaBuildsTheValueOrRaises : Prop :=
  ∀ s : State,
    (∀ o0 o1 o2 o3, s.xFamily = 0#1 → DottedQuad s.mem.bufXaddr o0 o1 o2 o3 →
      exec .genxma s = .next (valWritten s
        [0x00#8, 0x01#8, s.xPort.extractLsb' 8 8 ^^^ 0x21#8, s.xPort.extractLsb' 0 8 ^^^ 0x12#8,
          BitVec.ofNat 8 o0 ^^^ 0x21#8, BitVec.ofNat 8 o1 ^^^ 0x12#8, BitVec.ofNat 8 o2 ^^^ 0xA4#8,
          BitVec.ofNat 8 o3 ^^^ 0x42#8])) ∧
    (s.xFamily = 1#1 → exec .genxma s = .next (errorState s 0x24#8)) ∧
    (s.xFamily = 0#1 → (∀ o0 o1 o2 o3, ¬ DottedQuad s.mem.bufXaddr o0 o1 o2 o3) →
      exec .genxma s = .next (errorState s 0x31#8))

/-- 41_attribute.md R123 with R122: RMPAD strips every trailing zero byte of VAL and nothing else, and never raises.
The stripped value is within VAL's capacity, as every value the unit can hold is. -/
def Obligations.RmpadStripsTrailingZeros : Prop :=
  ∀ (s : State) (value : List Byte) (zeros : Nat),
    s.mem.bufVal = value ++ List.replicate zeros 0x00#8 → value.getLast? ≠ some 0x00#8 → value.length ≤ 65535 →
    exec .rmpad s = .next (valWritten s value)

/-- 60_exceptions.md R175 and 30_encoding.md R80: a CMD value that selects no command makes STATUS 0x41 and changes
nothing else, as an instruction and as a write to CMD; the next action is performed as ever. -/
def Obligations.IllegalCommandChangesStatusOnly : Prop :=
  ∀ (s : State) (op : Byte), op = 0x00#8 ∨ 7 ≤ op.toNat →
    exec (.illegal op) s = .next (errorState s 0x41#8) ∧
    (∀ rest, s.script = .cmd op :: rest →
      step s = .next { s with status := 0x41#8, script := rest } ∧
      (∀ a rest', rest = a :: rest' →
        step { s with status := 0x41#8, script := rest } = perform a { s with status := 0x41#8, script := rest' }))

/-! ### The message-type rows and the attribute-type rows -/

/-- 30_encoding.md R67 (class and method of each row): each of the four Binding rows, read where PARSEHDR reads it,
takes the header with its class. That a row's meaning is PARSEHDR's on a window with its word is the model's choice
(log entry 8). -/
def Obligations.BindingRowsTakeTheHeader : Prop :=
  ∀ (s : State) b0 b1 l0 l1 t rest, s.mem.bufIn = headerWindow b0 b1 l0 l1 t rest →
    exec .bindingRequest s = .next (headerTaken s 0b00#2 l0 l1 t) ∧
    exec .bindingIndication s = .next (headerTaken s 0b01#2 l0 l1 t) ∧
    exec .bindingSuccess s = .next (headerTaken s 0b10#2 l0 l1 t) ∧
    exec .bindingError s = .next (headerTaken s 0b11#2 l0 l1 t)

/-- 30_encoding.md R65, R67: the generic row with any method other than Binding raises `E_UNSUP_METHOD` where PARSEHDR
reads it; with the method Binding it takes the header (log entry 8). -/
def Obligations.GenericMessageTypeRaisesUnlessBinding : Prop :=
  ∀ (s : State) b0 b1 l0 l1 t rest cls method, s.mem.bufIn = headerWindow b0 b1 l0 l1 t rest →
    (method ≠ 0x001#12 → exec (.msgtype cls method) s = .next (errorState s 0x21#8)) ∧
    (method = 0x001#12 → exec (.msgtype cls method) s = .next (headerTaken s cls l0 l1 t))

/-- 30_encoding.md R75: each of the eight names, read where PARSEATTR reads it, takes the attribute with its name id
(log entry 9). -/
def Obligations.NameRowsTakeTheAttribute : Prop :=
  ∀ (s : State) c0 c1 l0 l1 value rest, s.mem.bufIn = attributeWindow c0 c1 l0 l1 (value ++ rest) →
    value.length = (word16 l0 l1).toNat →
    exec .mappedAddress s = .next (attributeTaken s 0#4 l0 l1 value) ∧
    exec .username s = .next (attributeTaken s 1#4 l0 l1 value) ∧
    exec .messageIntegrity s = .next (attributeTaken s 2#4 l0 l1 value) ∧
    exec .errorCode s = .next (attributeTaken s 3#4 l0 l1 value) ∧
    exec .unknownAttributes s = .next (attributeTaken s 4#4 l0 l1 value) ∧
    exec .realm s = .next (attributeTaken s 5#4 l0 l1 value) ∧
    exec .nonce s = .next (attributeTaken s 6#4 l0 l1 value) ∧
    exec .xorMappedAddress s = .next (attributeTaken s 7#4 l0 l1 value)

/-- 30_encoding.md R76: a code outside the unit's registry raises `E_UNKNOWN_TYPE` where PARSEATTR reads it; it is
never skipped (log entry 9). -/
def Obligations.UnknownCodeRaises : Prop :=
  ∀ (s : State) code c0 c1 l0 l1 rest, WellFormed (.unknown code) →
    s.mem.bufIn = attributeWindow c0 c1 l0 l1 rest → (word16 l0 l1).toNat ≤ rest.length →
    exec (.unknown code) s = .next (errorState s 0x22#8)

/-- A row of format MSGTYPE16 does what PARSEHDR does on IN with the row's word as its first two bytes, IN itself
left alone; so where IN begins with the word the two are the same (log entry 8). -/
def Obligations.MessageTypeRowsActAsParsehdr : Prop :=
  ∀ (i : Instr) (s : State), i.format = .msgType16 →
    (∀ rest, s.mem.bufIn = encode i ++ rest → exec i s = exec .parsehdr s) ∧
    (∀ t, exec .parsehdr { s with mem := { s.mem with bufIn := encode i ++ s.mem.bufIn.drop 2 } } = .next t →
      exec i s = .next { t with mem := { t.mem with bufIn := s.mem.bufIn } })

/-- A row of format ATTRTYPE16 does what PARSEATTR does on IN with the row's word as its first two bytes, IN itself
left alone; so where IN begins with the word the two are the same (log entry 9). -/
def Obligations.AttributeTypeRowsActAsParseattr : Prop :=
  ∀ (i : Instr) (s : State), i.format = .attrType16 →
    (∀ rest, s.mem.bufIn = encode i ++ rest → exec i s = exec .parseattr s) ∧
    (∀ t, exec .parseattr { s with mem := { s.mem with bufIn := encode i ++ s.mem.bufIn.drop 2 } } = .next t →
      exec i s = .next { t with mem := { t.mem with bufIn := s.mem.bufIn } })

/-! ### Frames -/

/-- 10_state.md R33: PARSEHDR writes the six header registers and STATUS; every other register and every byte of all
four buffers are as before. That the message-type rows have the same frame is the model's choice (log entry 8): R33
lists the commands only. -/
def Obligations.HeaderParsersWriteHeaderRegistersOnly : Prop :=
  ∀ (i : Instr) (s t : State), i = .parsehdr ∨ i.format = .msgType16 → exec i s = .next t →
    t.aType = s.aType ∧ t.aLength = s.aLength ∧ t.xFamily = s.xFamily ∧ t.xPort = s.xPort ∧
    (∀ (b : Buf) (index : Nat), (t.mem.get b)[index]? = (s.mem.get b)[index]?) ∧ t.script = s.script ∧ t.observed = s.observed

/-- 10_state.md R33: PARSEATTR writes A_TYPE, A_LENGTH, VAL and STATUS; every other register and every byte of IN, OUT
and XADDR are as before. That the attribute-type rows have the same frame is the model's choice (log entry 9): R33
lists the commands only. -/
def Obligations.AttributeParsersWriteAttributeOperandsOnly : Prop :=
  ∀ (i : Instr) (s t : State), i = .parseattr ∨ i.format = .attrType16 → exec i s = .next t →
    t.hClass = s.hClass ∧ t.hMethod = s.hMethod ∧ t.hLength = s.hLength ∧ t.hTxid0 = s.hTxid0 ∧
    t.hTxid1 = s.hTxid1 ∧ t.hTxid2 = s.hTxid2 ∧ t.xFamily = s.xFamily ∧ t.xPort = s.xPort ∧
    (∀ (b : Buf) (index : Nat), b ≠ .bufVal → (t.mem.get b)[index]? = (s.mem.get b)[index]?) ∧
    t.script = s.script ∧ t.observed = s.observed

/-- 10_state.md R33: GENHDR and GENATTR write OUT and STATUS; every register and every byte of IN, VAL and XADDR are
as before. -/
def Obligations.GeneratorsWriteOutOnly : Prop :=
  ∀ (i : Instr) (s t : State), i = .genhdr ∨ i = .genattr → exec i s = .next t →
    t.hClass = s.hClass ∧ t.hMethod = s.hMethod ∧ t.hLength = s.hLength ∧ t.hTxid0 = s.hTxid0 ∧
    t.hTxid1 = s.hTxid1 ∧ t.hTxid2 = s.hTxid2 ∧ t.aType = s.aType ∧ t.aLength = s.aLength ∧
    t.xFamily = s.xFamily ∧ t.xPort = s.xPort ∧
    (∀ (b : Buf) (index : Nat), b ≠ .bufOut → (t.mem.get b)[index]? = (s.mem.get b)[index]?) ∧
    t.script = s.script ∧ t.observed = s.observed

/-- 10_state.md R33: GENXMA and RMPAD write VAL and STATUS; every register (A_TYPE and A_LENGTH among them) and every
byte of IN, OUT and XADDR are as before. -/
def Obligations.ValueWritersWriteValOnly : Prop :=
  ∀ (i : Instr) (s t : State), i = .genxma ∨ i = .rmpad → exec i s = .next t →
    t.hClass = s.hClass ∧ t.hMethod = s.hMethod ∧ t.hLength = s.hLength ∧ t.hTxid0 = s.hTxid0 ∧
    t.hTxid1 = s.hTxid1 ∧ t.hTxid2 = s.hTxid2 ∧ t.aType = s.aType ∧ t.aLength = s.aLength ∧
    t.xFamily = s.xFamily ∧ t.xPort = s.xPort ∧
    (∀ (b : Buf) (index : Nat), b ≠ .bufVal → (t.mem.get b)[index]? = (s.mem.get b)[index]?) ∧
    t.script = s.script ∧ t.observed = s.observed

/-! ### Rules about every command -/

/-- 60_exceptions.md R176, R170: whatever the instruction, one that ends with an error has changed STATUS alone (for
the message-type and attribute-type rows the model's choice, log entries 8 and 9). -/
def Obligations.FailingCommandChangesStatusOnly : Prop :=
  ∀ (i : Instr) (s t : State), exec i s = .next t → t.status ≠ 0x00#8 → t = errorState s t.status

/-- 10_state.md R33: "no command writes IN, XADDR, X_FAMILY or X_PORT" (for the message-type and attribute-type rows
the model's choice, log entries 8 and 9). -/
def Obligations.NoCommandWritesTheHostsOperands : Prop :=
  ∀ (i : Instr) (s t : State), exec i s = .next t →
    t.mem.bufIn = s.mem.bufIn ∧ t.mem.bufXaddr = s.mem.bufXaddr ∧ t.xFamily = s.xFamily ∧ t.xPort = s.xPort

/-- 70_reset_and_hazards.md R207: every command completes, in every state whose buffers are within capacity; none
stops the unit (for the message-type and attribute-type rows the model's choice, log entries 8 and 9). -/
def Obligations.EveryCommandCompletes : Prop :=
  ∀ (i : Instr) (s : State), s.mem.wf → ∃ t, exec i s = .next t

/-- 60_exceptions.md R171, R172: the STATUS a command leaves is `OK` or one of the eleven codes commands raise, never
`E_WIDTH`, and which ones depends on the command; a message-type or attribute-type row leaves those its word makes
possible (log entries 8 and 9). -/
def Obligations.StatusAfterACommandIsOneOfItsCodes : Prop :=
  ∀ (i : Instr) (s t : State), exec i s = .next t →
    match i with
    | .parsehdr => t.status ∈ [0x00#8, 0x15#8, 0x12#8, 0x11#8, 0x21#8]
    | .genhdr => t.status ∈ [0x00#8, 0x21#8]
    | .parseattr => t.status ∈ [0x00#8, 0x13#8, 0x22#8]
    | .genattr => t.status ∈ [0x00#8, 0x14#8, 0x23#8]
    | .genxma => t.status ∈ [0x00#8, 0x24#8, 0x31#8]
    | .rmpad => t.status = 0x00#8
    | .illegal _ => t.status = 0x41#8
    | .bindingRequest | .bindingIndication | .bindingSuccess | .bindingError =>
      t.status ∈ [0x00#8, 0x15#8, 0x12#8]
    | .msgtype _ _ => t.status ∈ [0x00#8, 0x15#8, 0x12#8, 0x21#8]
    | .unknown _ => t.status ∈ [0x00#8, 0x13#8, 0x22#8]
    | .mappedAddress | .username | .messageIntegrity | .errorCode | .unknownAttributes | .realm | .nonce
    | .xorMappedAddress => t.status ∈ [0x00#8, 0x13#8]

/-- 10_state.md R13: no command reads STATUS, so the outcome never depends on that of an earlier command
(for the message-type and attribute-type rows the model's choice, log entries 8 and 9). -/
def Obligations.NoCommandReadsStatus : Prop :=
  ∀ (i : Instr) (s : State) (v : Byte), exec i { s with status := v } = exec i s

/-- 20_memory.md R48: issuing a command twice in a row leaves what issuing it once leaves; RMPAD too (for the
message-type and attribute-type rows the model's choice, log entries 8 and 9). -/
def Obligations.RepeatingACommandChangesNothing : Prop :=
  ∀ (i : Instr) (s t : State), exec i s = .next t → exec i t = .next t

/-- 10_state.md R35: what a host may rely on after each successful command. -/
def Obligations.WhatHoldsAfterSuccess : Prop :=
  ∀ s t : State,
    (exec .parsehdr s = .next t → t.status = 0x00#8 → t.hMethod = 0x001#12) ∧
    (exec .parseattr s = .next t → t.status = 0x00#8 →
      t.aType.toNat ≤ 7 ∧ t.mem.bufVal.length = t.aLength.toNat ∧ 4 + t.aLength.toNat ≤ t.mem.bufIn.length) ∧
    (exec .genxma s = .next t → t.status = 0x00#8 → t.mem.bufVal.length = 8) ∧
    (exec .genhdr s = .next t → t.status = 0x00#8 → t.mem.bufOut.length = 20) ∧
    (exec .genattr s = .next t → t.status = 0x00#8 →
      t.mem.bufOut.length % 4 = 0 ∧
      t.mem.bufOut.length = 4 + t.aLength.toNat + (4 - t.aLength.toNat % 4) % 4) ∧
    (exec .rmpad s = .next t → t.status = 0x00#8 →
      t.mem.bufVal = [] ∨ ∃ b, t.mem.bufVal.getLast? = some b ∧ b ≠ 0x00#8)

/-- 10_state.md R33, 42_header.md R146 and 41_attribute.md R114: PARSEHDR reads nothing of IN beyond index 19, and
PARSEATTR nothing beyond the value: two states alike in what is read end alike in all that is written. -/
def Obligations.ParsersReadNothingBeyondTheirField : Prop :=
  (∀ (s : State) (w r r' : List Byte) (t : State), w.length = 20 →
    exec .parsehdr { s with mem := { s.mem with bufIn := w ++ r } } = .next t →
    exec .parsehdr { s with mem := { s.mem with bufIn := w ++ r' } } =
      .next { t with mem := { t.mem with bufIn := w ++ r' } }) ∧
  (∀ (s : State) (c0 c1 l0 l1 : Byte) (value r r' : List Byte) (t : State), value.length = (word16 l0 l1).toNat →
    exec .parseattr { s with mem := { s.mem with bufIn := attributeWindow c0 c1 l0 l1 (value ++ r) } } = .next t →
    exec .parseattr { s with mem := { s.mem with bufIn := attributeWindow c0 c1 l0 l1 (value ++ r') } } =
      .next { t with mem := { t.mem with bufIn := attributeWindow c0 c1 l0 l1 (value ++ r') } })

/-- 10_state.md R33: a command reads nothing outside its row of the table: in two states alike in its read set it
ends alike in its write set. -/
def Obligations.CommandsDependOnTheirReadSetOnly : Prop :=
  ∀ s s' t t' : State,
    (s.mem.bufIn = s'.mem.bufIn → exec .parsehdr s = .next t → exec .parsehdr s' = .next t' →
      t.status = t'.status ∧ (t.status = 0x00#8 → t.hClass = t'.hClass ∧ t.hMethod = t'.hMethod ∧
        t.hLength = t'.hLength ∧ t.hTxid0 = t'.hTxid0 ∧ t.hTxid1 = t'.hTxid1 ∧ t.hTxid2 = t'.hTxid2)) ∧
    (s.hClass = s'.hClass → s.hMethod = s'.hMethod → s.hLength = s'.hLength → s.hTxid0 = s'.hTxid0 →
      s.hTxid1 = s'.hTxid1 → s.hTxid2 = s'.hTxid2 → exec .genhdr s = .next t → exec .genhdr s' = .next t' →
      t.status = t'.status ∧ (t.status = 0x00#8 → t.mem.bufOut = t'.mem.bufOut)) ∧
    (s.mem.bufIn = s'.mem.bufIn → exec .parseattr s = .next t → exec .parseattr s' = .next t' →
      t.status = t'.status ∧ (t.status = 0x00#8 → t.aType = t'.aType ∧ t.aLength = t'.aLength ∧
        t.mem.bufVal = t'.mem.bufVal)) ∧
    (s.aType = s'.aType → s.aLength = s'.aLength → s.mem.bufVal = s'.mem.bufVal →
      exec .genattr s = .next t → exec .genattr s' = .next t' →
      t.status = t'.status ∧ (t.status = 0x00#8 → t.mem.bufOut = t'.mem.bufOut)) ∧
    (s.xFamily = s'.xFamily → s.xPort = s'.xPort → s.mem.bufXaddr = s'.mem.bufXaddr →
      exec .genxma s = .next t → exec .genxma s' = .next t' →
      t.status = t'.status ∧ (t.status = 0x00#8 → t.mem.bufVal = t'.mem.bufVal)) ∧
    (s.mem.bufVal = s'.mem.bufVal → exec .rmpad s = .next t → exec .rmpad s' = .next t' →
      t.status = t'.status ∧ t.mem.bufVal = t'.mem.bufVal)

/-- Every step keeps the invariant: buffers within capacity (10_state.md R23), STATUS a code of the error table that a
command can leave (60_exceptions.md R171, R172). -/
def Obligations.EveryStepKeepsTheInvariant : Prop :=
  ∀ s t : State, UnitInv s → step s = .next t → UnitInv t

/-! ### Encodings -/

/-- 30_encoding.md R63, R75, R79, R84: decoding the word of a well-formed instruction gives it back, whatever follows;
under either layout and every admissible registry. -/
def Obligations.DecodeOfEncodeIsTheInstruction : Prop :=
  ∀ (c : Config) (i : Instr) (rest : List Byte), registryAdmissible c.registry = true → i.wfIn c = true →
    decodeWith c i.format (encodeWith c i ++ rest) = .ok (i, rest)

/-- 30_encoding.md R84, R80, R66, R76: every word a decoder accepts is the word of the well-formed instruction it gives,
of the format asked for; under either layout and every admissible registry. -/
def Obligations.EncodeOfDecodeIsTheWord : Prop :=
  ∀ (c : Config) (f : Format) (bytes : List Byte) (i : Instr) (rest : List Byte),
    registryAdmissible c.registry = true → decodeWith c f bytes = .ok (i, rest) →
    bytes = encodeWith c i ++ rest ∧ i.format = f ∧ i.wfIn c = true

/-- 30_encoding.md R66 and the table's formats: a decoder refuses exactly the words that are too short and the message
types whose reserved bits are not zero, each by its name; the other two formats know no reserved bits. -/
def Obligations.DecodersRefuseByName : Prop :=
  ∀ (c : Config) (f : Format) (bytes : List Byte),
    (bytes.length < formatBytes f ↔ decodeWith c f bytes = .error .shortWord) ∧
    (∀ b0 b1 rest, f = .msgType16 → bytes = b0 :: b1 :: rest →
      (b0.extractLsb' 6 2 ≠ 0#2 ↔ decodeWith c f bytes = .error .reservedBits)) ∧
    (decodeWith c f bytes = .error .reservedBits → f = .msgType16)

/-- A few words of each format, written out from the encoding tables (30_encoding.md R61, R67, R75, R79). -/
def Obligations.SpecimenWordsDecode : Prop :=
  decode .cmd8 [0b00000001#8] = .ok (.parsehdr, []) ∧
  decode .cmd8 [0b00000110#8] = .ok (.rmpad, []) ∧
  decode .cmd8 [0b00000111#8] = .ok (.illegal 7#8, []) ∧
  decode .msgType16 [0b00000001#8, 0b00000001#8] = .ok (.bindingSuccess, []) ∧
  decode .msgType16 [0b00101011#8, 0b01111100#8] = .ok (.msgtype 3#2 0xABC#12, []) ∧
  decode .attrType16 [0b00000000#8, 0b00100000#8] = .ok (.xorMappedAddress, []) ∧
  decode .attrType16 [0b11111111#8, 0b11111111#8] = .ok (.unknown 0xFFFF#16, [])

/-- 30_encoding.md R67: under the layout RFC a message-type field is one of the four Binding types exactly when
`T & 0xFEEF = 0x0001`. -/
def Obligations.AcceptedMessageTypesAreTheMaskedMatch : Prop :=
  ∀ (b0 b1 : Byte),
    (∃ i, i ∈ [Instr.bindingRequest, .bindingIndication, .bindingSuccess, .bindingError] ∧
      decode .msgType16 [b0, b1] = .ok (i, [])) ↔ word16 b0 b1 &&& 0xFEEF#16 = 0x0001#16

/-- 30_encoding.md R62 (with 42_header.md R141): under the layout RFC the source's way through booleans is the gather
`T[15:14]`, `T[8] ++ T[4]`, `T[13:9] ++ T[7:5] ++ T[3:0]`; under either layout it is the gather by shifts and masks. -/
def Obligations.UnpackTypeIsTheGather : Prop :=
  (∀ b0 b1 : Byte, unpackType .rfc b0 b1 =
    { reserved := (word16 b0 b1).extractLsb' 14 2
      cls := (word16 b0 b1).extractLsb' 8 1 ++ (word16 b0 b1).extractLsb' 4 1
      method := (word16 b0 b1).extractLsb' 9 5 ++ (word16 b0 b1).extractLsb' 5 3 ++ (word16 b0 b1).extractLsb' 0 4 }) ∧
  (∀ (layout : TypeLayout) (b0 b1 : Byte), unpackType layout b0 b1 = gatherType layout (word16 b0 b1))

/-- 42_header.md R143: `packType` and `unpackType` undo each other on the words whose two top bits are zero, so
`packType` is a bijection onto them; a method below 16 sits unchanged in the low bits when the class is Request. -/
def Obligations.PackTypeAndUnpackTypeAreInverse : Prop :=
  ∀ layout : TypeLayout,
    (∀ cls method, ∃ b0 b1, packType layout cls method = .ok [b0, b1] ∧
      unpackType layout b0 b1 = { reserved := 0#2, cls := cls, method := method }) ∧
    (∀ b0 b1 cls method, unpackType layout b0 b1 = { reserved := 0#2, cls := cls, method := method } →
      packType layout cls method = .ok [b0, b1]) ∧
    (∀ b0 b1 : Byte, (∃ cls method, packType layout cls method = .ok [b0, b1]) ↔ b0.extractLsb' 6 2 = 0#2) ∧
    (∀ cls method cls' method', packType layout cls method = packType layout cls' method' →
      cls = cls' ∧ method = method') ∧
    (∀ low : BitVec 4, packType layout 0b00#2 (0#8 ++ low) = .ok [0x00#8, 0#4 ++ low])

/-- 30_encoding.md R63: the scatter, bit by bit: `0b00 ++ M[11:7] ++ C[1] ++ M[6:4] ++ C[0] ++ M[3:0]`. -/
def Obligations.ScatterPlacesEveryBit : Prop :=
  ∀ (cls : ClassCode) (method : MethodCode),
    scatterType .rfc cls method =
      0#2 ++ method.extractLsb' 7 5 ++ cls.extractLsb' 1 1 ++ method.extractLsb' 4 3 ++ cls.extractLsb' 0 1 ++
        method.extractLsb' 0 4

/-! ### The pure functions -/

/-- 40_conversion.md R95: the relations between the four conversion functions; the last two say that numbers are not
injective across lengths, since leading zeros do not change them. -/
def Obligations.ConversionLaws : Prop :=
  (∀ s : List Byte, numberToBytes (bytesToNumber s) s.length = .ok s) ∧
  (∀ v k : Nat, v < 256 ^ k → ∃ s, numberToBytes v k = .ok s ∧ s.length = k ∧ bytesToNumber s = v) ∧
  (∀ s : List Byte, bitsToNumber (bytesToBits s) = bytesToNumber s) ∧
  (∀ s s' : List Byte, bytesToBits s = bytesToBits s' → s = s') ∧
  (∀ s : List Byte, (bytesToBits s).length = 8 * s.length) ∧
  (∀ s : List Byte, bytesToNumber (0x00#8 :: s) = bytesToNumber s) ∧
  (∀ bits : List Bool, bitsToNumber (false :: bits) = bitsToNumber bits)

/-- 40_conversion.md R94: byte `i` of `k` is `(v div 256^(k-1-i)) mod 256`; a number too wide for the count is
`E_WIDTH`, never a truncation. -/
def Obligations.NumberToBytesGivesEachByteOrRefuses : Prop :=
  ∀ v k : Nat,
    (256 ^ k ≤ v ↔ numberToBytes v k = .error .width) ∧
    (∀ s, numberToBytes v k = .ok s → s.length = k ∧
      ∀ i, i < k → s[i]? = some (BitVec.ofNat 8 (v / 256 ^ (k - 1 - i) % 256)))

/-- 40_conversion.md R98 and 10_state.md R18: the hexadecimal view of a transaction id has 24 characters and reads back
as its three words. -/
def Obligations.TxidHexReadsBack : Prop :=
  ∀ t : TxId, (txidHex t).length = 24 ∧
    txidWordsOfHex (txidHex t) = some (t.extractLsb' 64 32, t.extractLsb' 32 32, t.extractLsb' 0 32)

/-- 41_attribute.md R112 (with R111 and 30_encoding.md R76): in every admissible registry the code of an id up to 7 is
that of its row, ids 8 to 15 are absent, and the two lookups undo each other; the code 0xFFFF is absent. -/
def Obligations.RegistryLookupsAreInverse : Prop :=
  ∀ r : List RegistryRow, registryAdmissible r = true →
    (∀ name : NameId, name.toNat ≤ 7 → ∃ code, codeForName r name = some code ∧
      { code := code, name := name } ∈ r ∧ nameForCode r code = some name) ∧
    (∀ (code : Word16) (name : NameId), nameForCode r code = some name →
      name.toNat ≤ 7 ∧ codeForName r name = some code) ∧
    (∀ name : NameId, 8 ≤ name.toNat → codeForName r name = none) ∧
    nameForCode r 0xFFFF#16 = none

/-- 42_header.md R151: both round trips of the header codec, under either layout. -/
def Obligations.HeaderRoundTrips : Prop :=
  ∀ c : Config,
    (∀ h : Header, h.method = 0x001#12 → ∃ b, generateHeader c h = .ok b ∧ b.length = 20 ∧ parseHeader c b = .ok h) ∧
    (∀ (b : List Byte) (h : Header), b.length = 20 → parseHeader c b = .ok h → generateHeader c h = .ok b)

/-- 41_attribute.md R117: the round trip of the attribute codec, for every admissible registry, and the converse up to
padding. -/
def Obligations.AttributeRoundTrips : Prop :=
  ∀ c : Config, registryAdmissible c.registry = true →
    (∀ a : Attribute, a.value.length = a.length.toNat → a.name.toNat ≤ 7 →
      ∃ b, generateAttribute c a = .ok b ∧ b.length % 4 = 0 ∧ parseAttribute c b = .ok a) ∧
    (∀ (w : List Byte) (a : Attribute), parseAttribute c w = .ok a →
      generateAttribute c a = .ok (w.take (4 + a.length.toNat) ++
        List.replicate ((4 - a.length.toNat % 4) % 4) 0x00#8))

/-- 41_attribute.md R121: XOR with the cookie's bytes undoes itself, so applying it again to what GENXMA wrote recovers
the port from bytes 2 to 3 of VAL and the four octets from bytes 4 to 7. -/
def Obligations.XorTransformIsItsOwnInverse : Prop :=
  (∀ port : Word16, (port ^^^ 0x2112#16) ^^^ 0x2112#16 = port) ∧
  (∀ octet k, k ∈ [0x21#8, 0x12#8, 0xA4#8, 0x42#8] → (octet ^^^ k) ^^^ k = octet) ∧
  ∀ (s : State) (o0 o1 o2 o3 : Nat) (t : State), s.xFamily = 0#1 → DottedQuad s.mem.bufXaddr o0 o1 o2 o3 →
    exec .genxma s = .next t →
    ∃ r f p0 p1 x0 x1 x2 x3, t.mem.bufVal = [r, f, p0, p1, x0, x1, x2, x3] ∧
      word16 p0 p1 ^^^ 0x2112#16 = s.xPort ∧ (x0 ^^^ 0x21#8).toNat = o0 ∧ (x1 ^^^ 0x12#8).toNat = o1 ∧
      (x2 ^^^ 0xA4#8).toNat = o2 ∧ (x3 ^^^ 0x42#8).toNat = o3

/-! ### The host's side of a step -/

/-- 10_state.md R14 and 30_encoding.md R79: a write to CMD executes the command its word decodes to, before any later
action. That `SET` of register 0 is such a write is the model's choice (log entry 11): 30_encoding.md R81 and R83 give
`SET` the registers 2 to 11 only. -/
def Obligations.StepExecutesTheCommandWritten : Prop :=
  ∀ (s : State) (op : Byte) (rest : List HostAction) (i : Instr),
    s.script = .cmd op :: rest ∨ s.script = .set .cmd op.toNat :: rest →
    decode .cmd8 [op] = .ok (i, []) → step s = exec i { s with script := rest }

/-- Placing any word of the table and stepping runs the instruction the decoder reads from it, at the state the word
was placed in (log entries 7 and 10). -/
def Obligations.StepRunsTheWordPlaced : Prop :=
  ∀ (s : State) (nbits w : Nat) (i : Instr), decodeTableWord nbits w = some i →
    step (s.withFetchWord nbits w) = exec i { s.withFetchWord nbits w with script := s.script }

/-- 10_state.md R12: with no action pending the unit waits and nothing changes. -/
def Obligations.UnitWaitsForTheNextAction : Prop := ∀ s : State, s.script = [] → step s = .next s

/-- 10_state.md R34, R11: a host write of a register 2 to 11 with a value of its width stores that value and changes no
other register and no buffer. -/
def Obligations.HostWritesOneRegister : Prop :=
  ∀ (s : State) (r : Reg) (value : Nat) (rest : List HostAction), s.script = .set r value :: rest →
    2 ≤ regNumber r → regNumber r ≤ 11 → value < 2 ^ regWidth r →
    ∃ t, step s = .next t ∧ readReg t r = some value ∧ (∀ r', r' ≠ r → readReg t r' = readReg s r') ∧
      t.mem = s.mem ∧ t.script = rest ∧ t.observed = s.observed

/-- 20_memory.md R56: a load replaces the whole buffer by the bytes, its length register then reads how many they are,
and nothing else changes. -/
def Obligations.HostLoadsAWholeBuffer : Prop :=
  ∀ (s : State) (b : Buf) (bytes : List Byte) (rest : List HostAction), s.script = .load b bytes :: rest →
    b ≠ .bufOut → bytes.length ≤ capacity unitConfig b →
    ∃ t, step s = .next t ∧ t.mem.get b = bytes ∧ readReg t (lengthRegister b) = some bytes.length ∧
      (∀ b', b' ≠ b → t.mem.get b' = s.mem.get b') ∧
      t = { s with mem := t.mem, script := rest }

/-- 20_memory.md R48, R56 and 10_state.md R34, R11, R28: a read of a register, of a buffer or of one of its bytes
returns what stands there (STATUS and registers 2 to 11 their own value, a length register the length of its buffer)
and changes nothing of the unit. That what is read is appended to `observed` is the model's choice (log entry 14). -/
def Obligations.HostReadsHaveNoSideEffect : Prop :=
  ∀ (s : State) (rest : List HostAction),
    (∀ r value, s.script = .rd r :: rest → readReg s r = some value →
      step s = .next { s with script := rest, observed := s.observed ++ [.reg r value] }) ∧
    (readReg s .status = some s.status.toNat ∧ readReg s .hClass = some s.hClass.toNat ∧
      readReg s .hMethod = some s.hMethod.toNat ∧ readReg s .hLength = some s.hLength.toNat ∧
      readReg s .hTxid0 = some s.hTxid0.toNat ∧ readReg s .hTxid1 = some s.hTxid1.toNat ∧
      readReg s .hTxid2 = some s.hTxid2.toNat ∧ readReg s .aType = some s.aType.toNat ∧
      readReg s .aLength = some s.aLength.toNat ∧ readReg s .xFamily = some s.xFamily.toNat ∧
      readReg s .xPort = some s.xPort.toNat) ∧
    (s.mem.wf → readReg s .inLen = some s.mem.bufIn.length ∧ readReg s .valLen = some s.mem.bufVal.length ∧
      readReg s .outLen = some s.mem.bufOut.length ∧ readReg s .xaddrLen = some s.mem.bufXaddr.length) ∧
    (∀ b, s.script = .rdbuf b :: rest →
      step s = .next { s with
        script := rest, observed := s.observed ++ [.buffer b (s.mem.get b).length (s.mem.get b)] }) ∧
    (∀ b index value, s.script = .readByte b index :: rest → (s.mem.get b)[index]? = some value →
      step s = .next { s with script := rest, observed := s.observed ++ [.byte b index value] })

/-- 10_state.md R34 and 93_implementation_defined.md U15: the actions outside the host's rights are refused. The names
of the refusals, and the refusal of a value wider than the register, which R34 and U15 do not name, are the model's
choice (log entry 13), and so is its case `SET` of register 0 (log entry 11). -/
def Obligations.HostActionsWithoutARightAreRefused : Prop :=
  ∀ (s : State) (rest : List HostAction),
    (∀ r value, s.script = .set r value :: rest → r = .status ∨ 12 ≤ regNumber r →
      step s = .refused (.writeForbidden r)) ∧
    (∀ r value, s.script = .set r value :: rest → r ≠ .status → regNumber r < 12 → 2 ^ regWidth r ≤ value →
      step s = .refused (.valueTooWide r)) ∧
    (s.script = .rd .cmd :: rest → step s = .refused (.readForbidden .cmd)) ∧
    (∀ bytes, s.script = .load .bufOut bytes :: rest → step s = .refused (.loadForbidden .bufOut)) ∧
    (∀ b bytes, s.script = .load b bytes :: rest → b ≠ .bufOut → capacity unitConfig b < bytes.length →
      step s = .refused (.loadTooLong b)) ∧
    (∀ b index, s.script = .readByte b index :: rest → (s.mem.get b).length ≤ index →
      step s = .refused (.readBeyond b))

/-- 30_encoding.md R81: `CHK` ends the script exactly when STATUS is not `OK`, and leaves the unit alone. -/
def Obligations.CheckEndsTheScriptOnAnError : Prop :=
  ∀ (s : State) (rest : List HostAction), s.script = .chk :: rest →
    ∃ t, step s = .next t ∧ (s.status = 0x00#8 → t.script = rest) ∧ (s.status ≠ 0x00#8 → t.script = []) ∧
      t = { s with script := t.script, observed := s.observed ++ [.reg .status s.status.toNat] }

/-- 70_reset_and_hazards.md R200: whatever the state, after a reset the unit is in the reset state; the host keeps its
script and what it has read (log entry 12). -/
def Obligations.PlatformResetRestoresTheResetState : Prop :=
  ∀ (s : State) (rest : List HostAction), s.script = .reset :: rest →
    step s = .next { State.reset with script := rest, observed := s.observed }

/-! ### Round trips and flows on the unit itself -/

/-- 42_header.md R151 in command terms: GENHDR, loading IN with OUT, PARSEHDR ends with `OK` and the six header
registers as they were; PARSEHDR of 20 bytes, then GENHDR, ends with these bytes in OUT. -/
def Obligations.HeaderRoundTripsOnTheUnit : Prop :=
  ∀ s : State,
    (s.hMethod = 0x001#12 →
      ∃ t, exec .genhdr s = .next t ∧
        exec .parsehdr { t with mem := { t.mem with bufIn := t.mem.bufOut } } =
          .next { s with status := 0x00#8, mem := { t.mem with bufIn := t.mem.bufOut } }) ∧
    (∀ t, s.mem.bufIn.length = 20 → exec .parsehdr s = .next t → t.status = 0x00#8 →
      exec .genhdr t = .next (outWritten t s.mem.bufIn))

/-- 41_attribute.md R117 in command terms: GENATTR, loading IN with OUT, PARSEATTR ends with `OK` and A_TYPE, A_LENGTH
and VAL as they were; PARSEATTR, then GENATTR, reproduces the first `4 + L` bytes of IN followed by zero padding. -/
def Obligations.AttributeRoundTripsOnTheUnit : Prop :=
  ∀ s : State,
    (s.aType.toNat ≤ 7 → s.mem.bufVal.length = s.aLength.toNat →
      ∃ t, exec .genattr s = .next t ∧
        exec .parseattr { t with mem := { t.mem with bufIn := t.mem.bufOut } } =
          .next { s with status := 0x00#8, mem := { t.mem with bufIn := t.mem.bufOut } }) ∧
    (∀ t, exec .parseattr s = .next t → t.status = 0x00#8 →
      exec .genattr t = .next (outWritten t (s.mem.bufIn.take (4 + t.aLength.toNat) ++
        List.replicate ((4 - t.aLength.toNat % 4) % 4) 0x00#8)))

/-- 43_message_flow.md R162 against R161: the host script of the Binding response, run step by step on the unit from
any state, makes the host read exactly the bytes of the pure function; where the function fails, the script has ended
without a response and STATUS holds the error. What the host has read before is kept (log entry 14). -/
def Obligations.BindingScriptYieldsTheBindingResponse : Prop :=
  ∀ (s : State) (datagram : List Byte) (addr : TransportAddress),
    s.script = bindingScript datagram addr → datagram.length ≤ 65540 → addr.address.length ≤ 15 →
    ∃ t seen, Host.Core.run core 18 s = .next t ∧ t.script = [] ∧ t.observed = s.observed ++ seen ∧
      match bindingResponse unitConfig datagram addr with
      | .ok response => hostResponse seen = some response ∧ response.length = 32 ∧ t.status = 0x00#8
      | .error e => hostResponse seen = none ∧ t.status = errCode e

/-- 43_message_flow.md R164: the walk over attributes that were generated one after another finds exactly them. -/
def Obligations.WalkFindsTheAttributesGenerated : Prop :=
  ∀ (c : Config) (attributes : List Attribute) (encodings : List (List Byte)),
    registryAdmissible c.registry = true →
    attributes.map (generateAttribute c) = encodings.map .ok →
    walkAttributes c encodings.flatten = { attributes := attributes, error := none }

/-- 43_message_flow.md R164: the host's loop of loads and PARSEATTR commands sees the attributes of the pure walk, and
STATUS at its end holds the error that ended it. -/
def Obligations.WalkOnTheUnitIsTheWalk : Prop :=
  ∀ (s : State) (body : List Byte), body.length ≤ 65540 → body ≠ [] →
    ∃ t, walkByCommands body.length body s = some ((walkAttributes unitConfig body).attributes, t) ∧
      match (walkAttributes unitConfig body).error with
      | none => t.status = 0x00#8
      | some e => t.status = errCode e

/-! ### The length registers -/

/-- 10_state.md R28: the length registers are read-only views of the lengths of their buffers; their widths hold the
capacities; a length is the same where its buffer is the same. -/
def Obligations.LengthRegistersAreViewsOfTheBuffers : Prop :=
  (∀ s : State, s.mem.wf →
    s.inLen.toNat = s.mem.bufIn.length ∧ s.valLen.toNat = s.mem.bufVal.length ∧
    s.outLen.toNat = s.mem.bufOut.length ∧ s.xaddrLen.toNat = s.mem.bufXaddr.length ∧
    ∀ b, readReg s (lengthRegister b) = some (s.mem.get b).length) ∧
  (∀ (s : State) (b : Buf) (value : Nat) (rest : List HostAction), s.script = .set (lengthRegister b) value :: rest →
    step s = .refused (.writeForbidden (lengthRegister b))) ∧
  (∀ (s t : State) (b : Buf), t.mem.get b = s.mem.get b →
    readReg t (lengthRegister b) = readReg s (lengthRegister b)) ∧
  (regWidth .inLen = 17 ∧ regWidth .valLen = 16 ∧ regWidth .outLen = 17 ∧ regWidth .xaddrLen = 4 ∧
    ∀ b, capacity unitConfig b < 2 ^ regWidth (lengthRegister b))
end

