-- ==== Sys2Proof/Laws/Conversion.lean ====
section
/-! SUPPORT. Laws/Conversion.lean: laws of the conversion utilities that the codec's laws rest on
(40_conversion.md). -/

namespace Sys2Proof.Machine

@[simp] theorem bigEndian_length (n k : Nat) : (bigEndian n k).length = k := by
  induction k with
  | zero => rfl
  | succ k ih => simp [bigEndian, ih]

/-- A number that fits is converted without loss. -/
theorem numberToBytes_ok {n k : Nat} (h : n < 256 ^ k) : numberToBytes n k = .ok (bigEndian n k) := if_pos h

/-- A 16-bit value always fits two bytes (60_exceptions.md R172). -/
@[simp] theorem numberToBytes_word16 (w : Word16) : numberToBytes w.toNat 2 = .ok (bigEndian w.toNat 2) :=
  numberToBytes_ok w.isLt

/-- A 32-bit value always fits four bytes (60_exceptions.md R172). -/
@[simp] theorem numberToBytes_word32 (w : Word32) : numberToBytes w.toNat 4 = .ok (bigEndian w.toNat 4) :=
  numberToBytes_ok w.isLt

/-- The two bytes of a 16-bit value. -/
theorem bigEndian_word16 (w : Word16) : bigEndian w.toNat 2 = [w.extractLsb' 8 8, w.extractLsb' 0 8] := by
  simp only [bigEndian, List.cons.injEq, and_true]
  constructor <;> apply BitVec.eq_of_toNat_eq <;> simp [Nat.shiftRight_eq_div_pow]

/-- The four bytes of a 32-bit value. -/
theorem bigEndian_word32 (w : Word32) :
    bigEndian w.toNat 4 =
      [w.extractLsb' 24 8, w.extractLsb' 16 8, w.extractLsb' 8 8, w.extractLsb' 0 8] := by
  simp only [bigEndian, List.cons.injEq, and_true]
  refine ⟨?_, ?_, ?_, ?_⟩ <;> apply BitVec.eq_of_toNat_eq <;> simp [Nat.shiftRight_eq_div_pow]

theorem bytesToNumber_append (a b : List Byte) :
    bytesToNumber (a ++ b) = bytesToNumber a * 256 ^ b.length + bytesToNumber b := by
  induction a with
  | nil => simp [bytesToNumber]
  | cons x a ih => simp [bytesToNumber, ih, pow_add]; ring

theorem bytesToNumber_lt (s : List Byte) : bytesToNumber s < 256 ^ s.length := by
  induction s with
  | nil => simp [bytesToNumber]
  | cons b s ih =>
    have hb : b.toNat < 256 := b.isLt
    simp only [bytesToNumber, List.length_cons, pow_succ]
    nlinarith [Nat.zero_le (256 ^ s.length)]

/-- Concatenation as arithmetic. -/
theorem append_toNat {m n : Nat} (a : BitVec m) (b : BitVec n) : (a ++ b).toNat = a.toNat * 2 ^ n + b.toNat := by
  rw [BitVec.toNat_append, ← Nat.shiftLeft_add_eq_or_of_lt b.isLt, Nat.shiftLeft_eq]

theorem word16_toNat (a b : Byte) : (word16 a b).toNat = a.toNat * 256 + b.toNat := append_toNat a b

theorem word32_toNat (a b c d : Byte) :
    (word32 a b c d).toNat = ((a.toNat * 256 + b.toNat) * 256 + c.toNat) * 256 + d.toNat := by
  have h : (word32 a b c d).toNat = (a ++ b ++ c ++ d).toNat := rfl
  rw [h, append_toNat, append_toNat, append_toNat]
  norm_num

/-- Two bytes as a number are their 16-bit word. -/
theorem bytesToNumber_pair (a b : Byte) : bytesToNumber [a, b] = (word16 a b).toNat := by
  simp [bytesToNumber, word16_toNat]

/-- Four bytes as a number are their 32-bit word. -/
theorem bytesToNumber_quad (a b c d : Byte) : bytesToNumber [a, b, c, d] = (word32 a b c d).toNat := by
  simp [bytesToNumber, word32_toNat]; ring

@[simp] theorem fieldBytes_length (w : Word16) : (fieldBytes w).length = 2 := bigEndian_length _ _

/-- The two bytes of a 16-bit field on the wire. -/
theorem fieldBytes_eq (w : Word16) : fieldBytes w = [w.extractLsb' 8 8, w.extractLsb' 0 8] := bigEndian_word16 w

/-- Splitting a 16-bit word into its two bytes loses nothing. -/
@[simp] theorem word16_halves (w : Word16) : word16 (w.extractLsb' 8 8) (w.extractLsb' 0 8) = w := by
  apply BitVec.eq_of_toNat_eq
  rw [word16_toNat]
  simp [Nat.shiftRight_eq_div_pow]
  omega

/-- A 16-bit word made of two bytes has those bytes on the wire. -/
@[simp] theorem fieldBytes_word16 (a b : Byte) : fieldBytes (word16 a b) = [a, b] := by
  have ha := a.isLt
  have hb := b.isLt
  simp only [fieldBytes, bigEndian, word16_toNat, List.cons.injEq, and_true]
  constructor <;> apply BitVec.eq_of_toNat_eq <;> simp <;> omega

end Sys2Proof.Machine
end

