-- ==== Sys2Proof/Laws/State.lean ====
section
/-! SUPPORT. Laws/State.lean: what each update of the state does to each field, and what a buffer holds after a
replacement; all by definition, so that later proofs do not unfold an update. -/

namespace Sys2Proof.Machine

/-! ### One field after one update -/

@[simp] theorem State.setStatus_status (s : State) (v : Byte) : (s.setStatus v).status = v := rfl
@[simp] theorem State.setStatus_hClass (s : State) (v : Byte) : (s.setStatus v).hClass = s.hClass := rfl
@[simp] theorem State.setStatus_hMethod (s : State) (v : Byte) : (s.setStatus v).hMethod = s.hMethod := rfl
@[simp] theorem State.setStatus_hLength (s : State) (v : Byte) : (s.setStatus v).hLength = s.hLength := rfl
@[simp] theorem State.setStatus_hTxid0 (s : State) (v : Byte) : (s.setStatus v).hTxid0 = s.hTxid0 := rfl
@[simp] theorem State.setStatus_hTxid1 (s : State) (v : Byte) : (s.setStatus v).hTxid1 = s.hTxid1 := rfl
@[simp] theorem State.setStatus_hTxid2 (s : State) (v : Byte) : (s.setStatus v).hTxid2 = s.hTxid2 := rfl
@[simp] theorem State.setStatus_aType (s : State) (v : Byte) : (s.setStatus v).aType = s.aType := rfl
@[simp] theorem State.setStatus_aLength (s : State) (v : Byte) : (s.setStatus v).aLength = s.aLength := rfl
@[simp] theorem State.setStatus_xFamily (s : State) (v : Byte) : (s.setStatus v).xFamily = s.xFamily := rfl
@[simp] theorem State.setStatus_xPort (s : State) (v : Byte) : (s.setStatus v).xPort = s.xPort := rfl
@[simp] theorem State.setStatus_mem (s : State) (v : Byte) : (s.setStatus v).mem = s.mem := rfl
@[simp] theorem State.setStatus_script (s : State) (v : Byte) : (s.setStatus v).script = s.script := rfl
@[simp] theorem State.setStatus_observed (s : State) (v : Byte) : (s.setStatus v).observed = s.observed := rfl

@[simp] theorem State.setBuffer_status (s : State) (b : Buf) (bytes : List Byte) : (s.setBuffer b bytes).status = s.status := rfl
@[simp] theorem State.setBuffer_hClass (s : State) (b : Buf) (bytes : List Byte) : (s.setBuffer b bytes).hClass = s.hClass := rfl
@[simp] theorem State.setBuffer_hMethod (s : State) (b : Buf) (bytes : List Byte) : (s.setBuffer b bytes).hMethod = s.hMethod := rfl
@[simp] theorem State.setBuffer_hLength (s : State) (b : Buf) (bytes : List Byte) : (s.setBuffer b bytes).hLength = s.hLength := rfl
@[simp] theorem State.setBuffer_hTxid0 (s : State) (b : Buf) (bytes : List Byte) : (s.setBuffer b bytes).hTxid0 = s.hTxid0 := rfl
@[simp] theorem State.setBuffer_hTxid1 (s : State) (b : Buf) (bytes : List Byte) : (s.setBuffer b bytes).hTxid1 = s.hTxid1 := rfl
@[simp] theorem State.setBuffer_hTxid2 (s : State) (b : Buf) (bytes : List Byte) : (s.setBuffer b bytes).hTxid2 = s.hTxid2 := rfl
@[simp] theorem State.setBuffer_aType (s : State) (b : Buf) (bytes : List Byte) : (s.setBuffer b bytes).aType = s.aType := rfl
@[simp] theorem State.setBuffer_aLength (s : State) (b : Buf) (bytes : List Byte) : (s.setBuffer b bytes).aLength = s.aLength := rfl
@[simp] theorem State.setBuffer_xFamily (s : State) (b : Buf) (bytes : List Byte) : (s.setBuffer b bytes).xFamily = s.xFamily := rfl
@[simp] theorem State.setBuffer_xPort (s : State) (b : Buf) (bytes : List Byte) : (s.setBuffer b bytes).xPort = s.xPort := rfl
@[simp] theorem State.setBuffer_mem (s : State) (b : Buf) (bytes : List Byte) : (s.setBuffer b bytes).mem = s.mem.set bytes b := rfl
@[simp] theorem State.setBuffer_script (s : State) (b : Buf) (bytes : List Byte) : (s.setBuffer b bytes).script = s.script := rfl
@[simp] theorem State.setBuffer_observed (s : State) (b : Buf) (bytes : List Byte) : (s.setBuffer b bytes).observed = s.observed := rfl

@[simp] theorem State.setHeader_status (s : State) (c : ClassCode) (m : MethodCode) (l : Word16) (a b d : Word32) : (s.setHeader c m l a b d).status = s.status := rfl
@[simp] theorem State.setHeader_hClass (s : State) (c : ClassCode) (m : MethodCode) (l : Word16) (a b d : Word32) : (s.setHeader c m l a b d).hClass = c := rfl
@[simp] theorem State.setHeader_hMethod (s : State) (c : ClassCode) (m : MethodCode) (l : Word16) (a b d : Word32) : (s.setHeader c m l a b d).hMethod = m := rfl
@[simp] theorem State.setHeader_hLength (s : State) (c : ClassCode) (m : MethodCode) (l : Word16) (a b d : Word32) : (s.setHeader c m l a b d).hLength = l := rfl
@[simp] theorem State.setHeader_hTxid0 (s : State) (c : ClassCode) (m : MethodCode) (l : Word16) (a b d : Word32) : (s.setHeader c m l a b d).hTxid0 = a := rfl
@[simp] theorem State.setHeader_hTxid1 (s : State) (c : ClassCode) (m : MethodCode) (l : Word16) (a b d : Word32) : (s.setHeader c m l a b d).hTxid1 = b := rfl
@[simp] theorem State.setHeader_hTxid2 (s : State) (c : ClassCode) (m : MethodCode) (l : Word16) (a b d : Word32) : (s.setHeader c m l a b d).hTxid2 = d := rfl
@[simp] theorem State.setHeader_aType (s : State) (c : ClassCode) (m : MethodCode) (l : Word16) (a b d : Word32) : (s.setHeader c m l a b d).aType = s.aType := rfl
@[simp] theorem State.setHeader_aLength (s : State) (c : ClassCode) (m : MethodCode) (l : Word16) (a b d : Word32) : (s.setHeader c m l a b d).aLength = s.aLength := rfl
@[simp] theorem State.setHeader_xFamily (s : State) (c : ClassCode) (m : MethodCode) (l : Word16) (a b d : Word32) : (s.setHeader c m l a b d).xFamily = s.xFamily := rfl
@[simp] theorem State.setHeader_xPort (s : State) (c : ClassCode) (m : MethodCode) (l : Word16) (a b d : Word32) : (s.setHeader c m l a b d).xPort = s.xPort := rfl
@[simp] theorem State.setHeader_mem (s : State) (c : ClassCode) (m : MethodCode) (l : Word16) (a b d : Word32) : (s.setHeader c m l a b d).mem = s.mem := rfl
@[simp] theorem State.setHeader_script (s : State) (c : ClassCode) (m : MethodCode) (l : Word16) (a b d : Word32) : (s.setHeader c m l a b d).script = s.script := rfl
@[simp] theorem State.setHeader_observed (s : State) (c : ClassCode) (m : MethodCode) (l : Word16) (a b d : Word32) : (s.setHeader c m l a b d).observed = s.observed := rfl

@[simp] theorem State.setAttribute_status (s : State) (n : NameId) (l : Word16) : (s.setAttribute n l).status = s.status := rfl
@[simp] theorem State.setAttribute_hClass (s : State) (n : NameId) (l : Word16) : (s.setAttribute n l).hClass = s.hClass := rfl
@[simp] theorem State.setAttribute_hMethod (s : State) (n : NameId) (l : Word16) : (s.setAttribute n l).hMethod = s.hMethod := rfl
@[simp] theorem State.setAttribute_hLength (s : State) (n : NameId) (l : Word16) : (s.setAttribute n l).hLength = s.hLength := rfl
@[simp] theorem State.setAttribute_hTxid0 (s : State) (n : NameId) (l : Word16) : (s.setAttribute n l).hTxid0 = s.hTxid0 := rfl
@[simp] theorem State.setAttribute_hTxid1 (s : State) (n : NameId) (l : Word16) : (s.setAttribute n l).hTxid1 = s.hTxid1 := rfl
@[simp] theorem State.setAttribute_hTxid2 (s : State) (n : NameId) (l : Word16) : (s.setAttribute n l).hTxid2 = s.hTxid2 := rfl
@[simp] theorem State.setAttribute_aType (s : State) (n : NameId) (l : Word16) : (s.setAttribute n l).aType = n := rfl
@[simp] theorem State.setAttribute_aLength (s : State) (n : NameId) (l : Word16) : (s.setAttribute n l).aLength = l := rfl
@[simp] theorem State.setAttribute_xFamily (s : State) (n : NameId) (l : Word16) : (s.setAttribute n l).xFamily = s.xFamily := rfl
@[simp] theorem State.setAttribute_xPort (s : State) (n : NameId) (l : Word16) : (s.setAttribute n l).xPort = s.xPort := rfl
@[simp] theorem State.setAttribute_mem (s : State) (n : NameId) (l : Word16) : (s.setAttribute n l).mem = s.mem := rfl
@[simp] theorem State.setAttribute_script (s : State) (n : NameId) (l : Word16) : (s.setAttribute n l).script = s.script := rfl
@[simp] theorem State.setAttribute_observed (s : State) (n : NameId) (l : Word16) : (s.setAttribute n l).observed = s.observed := rfl

@[simp] theorem State.setScript_status (s : State) (as : List HostAction) : (s.setScript as).status = s.status := rfl
@[simp] theorem State.setScript_hClass (s : State) (as : List HostAction) : (s.setScript as).hClass = s.hClass := rfl
@[simp] theorem State.setScript_hMethod (s : State) (as : List HostAction) : (s.setScript as).hMethod = s.hMethod := rfl
@[simp] theorem State.setScript_hLength (s : State) (as : List HostAction) : (s.setScript as).hLength = s.hLength := rfl
@[simp] theorem State.setScript_hTxid0 (s : State) (as : List HostAction) : (s.setScript as).hTxid0 = s.hTxid0 := rfl
@[simp] theorem State.setScript_hTxid1 (s : State) (as : List HostAction) : (s.setScript as).hTxid1 = s.hTxid1 := rfl
@[simp] theorem State.setScript_hTxid2 (s : State) (as : List HostAction) : (s.setScript as).hTxid2 = s.hTxid2 := rfl
@[simp] theorem State.setScript_aType (s : State) (as : List HostAction) : (s.setScript as).aType = s.aType := rfl
@[simp] theorem State.setScript_aLength (s : State) (as : List HostAction) : (s.setScript as).aLength = s.aLength := rfl
@[simp] theorem State.setScript_xFamily (s : State) (as : List HostAction) : (s.setScript as).xFamily = s.xFamily := rfl
@[simp] theorem State.setScript_xPort (s : State) (as : List HostAction) : (s.setScript as).xPort = s.xPort := rfl
@[simp] theorem State.setScript_mem (s : State) (as : List HostAction) : (s.setScript as).mem = s.mem := rfl
@[simp] theorem State.setScript_script (s : State) (as : List HostAction) : (s.setScript as).script = as := rfl
@[simp] theorem State.setScript_observed (s : State) (as : List HostAction) : (s.setScript as).observed = s.observed := rfl

@[simp] theorem State.observe_status (s : State) (o : Observation) : (s.observe o).status = s.status := rfl
@[simp] theorem State.observe_hClass (s : State) (o : Observation) : (s.observe o).hClass = s.hClass := rfl
@[simp] theorem State.observe_hMethod (s : State) (o : Observation) : (s.observe o).hMethod = s.hMethod := rfl
@[simp] theorem State.observe_hLength (s : State) (o : Observation) : (s.observe o).hLength = s.hLength := rfl
@[simp] theorem State.observe_hTxid0 (s : State) (o : Observation) : (s.observe o).hTxid0 = s.hTxid0 := rfl
@[simp] theorem State.observe_hTxid1 (s : State) (o : Observation) : (s.observe o).hTxid1 = s.hTxid1 := rfl
@[simp] theorem State.observe_hTxid2 (s : State) (o : Observation) : (s.observe o).hTxid2 = s.hTxid2 := rfl
@[simp] theorem State.observe_aType (s : State) (o : Observation) : (s.observe o).aType = s.aType := rfl
@[simp] theorem State.observe_aLength (s : State) (o : Observation) : (s.observe o).aLength = s.aLength := rfl
@[simp] theorem State.observe_xFamily (s : State) (o : Observation) : (s.observe o).xFamily = s.xFamily := rfl
@[simp] theorem State.observe_xPort (s : State) (o : Observation) : (s.observe o).xPort = s.xPort := rfl
@[simp] theorem State.observe_mem (s : State) (o : Observation) : (s.observe o).mem = s.mem := rfl
@[simp] theorem State.observe_script (s : State) (o : Observation) : (s.observe o).script = s.script := rfl
@[simp] theorem State.observe_observed (s : State) (o : Observation) : (s.observe o).observed = s.observed ++ [o] := rfl

/-! ### Buffers -/

@[simp] theorem Memory.get_bufIn (m : Memory) : m.get .bufIn = m.bufIn := rfl
@[simp] theorem Memory.get_bufVal (m : Memory) : m.get .bufVal = m.bufVal := rfl
@[simp] theorem Memory.get_bufOut (m : Memory) : m.get .bufOut = m.bufOut := rfl
@[simp] theorem Memory.get_bufXaddr (m : Memory) : m.get .bufXaddr = m.bufXaddr := rfl

@[simp] theorem Memory.set_bufIn (m : Memory) (s : List Byte) : m.set s .bufIn = { m with bufIn := s } := rfl
@[simp] theorem Memory.set_bufVal (m : Memory) (s : List Byte) : m.set s .bufVal = { m with bufVal := s } := rfl
@[simp] theorem Memory.set_bufOut (m : Memory) (s : List Byte) : m.set s .bufOut = { m with bufOut := s } := rfl
@[simp] theorem Memory.set_bufXaddr (m : Memory) (s : List Byte) : m.set s .bufXaddr = { m with bufXaddr := s } :=
  rfl

/-- A replaced buffer holds what it was replaced by. -/
theorem Memory.get_set_same (m : Memory) (s : List Byte) (b : Buf) : (m.set s b).get b = s := by
  cases b <;> rfl

/-- Replacing one buffer leaves the others alone (20_memory.md R40: the four spaces are disjoint). -/
theorem Memory.get_set_other (m : Memory) (s : List Byte) {b b' : Buf} (h : b' ≠ b) :
    (m.set s b).get b' = m.get b' := by
  cases b <;> cases b' <;> first | rfl | exact absurd rfl h

/-- Two memories with the same four contents are equal. -/
theorem Memory.ext_get {m m' : Memory} (h : ∀ b, m.get b = m'.get b) : m = m' := by
  cases m; cases m'
  simpa using ⟨h .bufIn, h .bufVal, h .bufOut, h .bufXaddr⟩

end Sys2Proof.Machine
end

