-- ==== Sys2Proof/Laws/Ops.lean ====
section
/-! SUPPORT. Laws/Ops.lean: for each shared operation, once, everything it can do. -/

namespace Sys2Proof.Machine

/-- `raise` answers a next state whose STATUS alone differs (60_exceptions.md R176). -/
theorem raise_eq (e : Err) (s : State) : raise e s = .next { s with status := errCode e } := rfl

/-- `succeed` answers a next state whose STATUS is `OK`. -/
theorem succeed_eq (s : State) : succeed s = .next { s with status := 0x00#8 } := rfl

/-- A write within the capacity replaces the buffer and sets STATUS to `OK`. -/
theorem succeedWriting_fits {c : Config} {b : Buf} {bytes : List Byte} (s : State)
    (h : bytes.length ≤ capacity c b) :
    succeedWriting c b bytes s = .next { s with status := 0x00#8, mem := s.mem.set bytes b } :=
  if_pos h

/-- If a write answers a next state, it was within the capacity and is that state. -/
theorem succeedWriting_next {c : Config} {b : Buf} {bytes : List Byte} {s t : State}
    (h : succeedWriting c b bytes s = .next t) :
    bytes.length ≤ capacity c b ∧ t = { s with status := 0x00#8, mem := s.mem.set bytes b } := by
  unfold succeedWriting at h
  split at h
  · rename_i hfit
    rw [succeed_eq] at h
    injection h with h
    exact ⟨hfit, h.symm⟩
  · cases h

/-- If a host write of a register answers a next state, the register is writable, the value fits, and the state is the
one with that register written. -/
theorem hostSet_next {r : Reg} {value : Nat} {s t : State} (h : hostSet r value s = .next t) :
    writeReg s value r = some t ∧ value < 2 ^ regWidth r := by
  unfold hostSet at h
  split at h
  · cases h
  · split at h
    · injection h with h
      exact ⟨h ▸ ‹_›, ‹_›⟩
    · cases h

/-- If a load answers a next state, the buffer is not OUT, the load is within the capacity, and the buffer alone has
changed. -/
theorem hostLoad_next {c : Config} {b : Buf} {bytes : List Byte} {s t : State}
    (h : hostLoad c b bytes s = .next t) :
    b ≠ .bufOut ∧ bytes.length ≤ capacity c b ∧ t = { s with mem := s.mem.set bytes b } := by
  unfold hostLoad at h
  split at h
  · cases h
  · split at h
    · injection h with h
      exact ⟨‹_›, ‹_›, h.symm⟩
    · cases h

/-- If a host read answers a next state, only what the host has read has changed. -/
theorem hostRead_next {r : Reg} {s t : State} (h : hostRead r s = .next t) :
    ∃ v, readReg s r = some v ∧ t = { s with observed := s.observed ++ [.reg r v] } := by
  unfold hostRead at h
  split at h
  · cases h
  · injection h with h
    exact ⟨_, ‹_›, h.symm⟩

/-- If a host read of a byte answers a next state, the byte exists and only what the host has read has changed. -/
theorem hostReadByte_next {b : Buf} {index : Nat} {s t : State} (h : hostReadByte b index s = .next t) :
    ∃ v, (s.mem.get b)[index]? = some v ∧ t = { s with observed := s.observed ++ [.byte b index v] } := by
  unfold hostReadByte at h
  split at h
  · cases h
  · injection h with h
    exact ⟨_, ‹_›, h.symm⟩

/-- `CHK` answers a next state in which the host has read STATUS, its script cut off unless STATUS is `OK`. -/
theorem hostCheck_eq (s : State) :
    hostCheck s = .next { s with
      script := if s.status = 0x00#8 then s.script else []
      observed := s.observed ++ [.reg .status s.status.toNat] } := by
  unfold hostCheck
  by_cases h : s.status = 0x00#8
  · simp [h, statusOk, State.observe]
  · simp [h, statusOk, State.observe, State.setScript]

end Sys2Proof.Machine
end

