-- ==== Sys2Proof/Laws/Memory.lean ====
section
/-! SUPPORT. Laws/Memory.lean: every operation on the buffers keeps them within their capacities (10_state.md R23;
20_memory.md R52), and the reset memory is. -/

namespace Sys2Proof.Machine

/-- A replacement within the capacity keeps the form of the memory. -/
theorem Memory.set_wfIn {c : Config} {m : Memory} {bytes : List Byte} {b : Buf} (hm : m.wfIn c)
    (h : bytes.length ≤ capacity c b) : (m.set bytes b).wfIn c := by
  obtain ⟨h1, h2, h3, h4⟩ := hm
  cases b
  · exact ⟨h, h2, h3, h4⟩
  · exact ⟨h1, h, h3, h4⟩
  · exact ⟨h1, h2, h, h4⟩
  · exact ⟨h1, h2, h3, h⟩

/-- `MemWrite` keeps the form of the memory. -/
theorem succeedWriting_wfIn {c : Config} {b : Buf} {bytes : List Byte} {s t : State} (hs : s.mem.wfIn c)
    (h : succeedWriting c b bytes s = .next t) : t.mem.wfIn c := by
  obtain ⟨hfit, rfl⟩ := succeedWriting_next h
  exact Memory.set_wfIn hs hfit

/-- A host load keeps the form of the memory. -/
theorem hostLoad_wfIn {c : Config} {b : Buf} {bytes : List Byte} {s t : State} (hs : s.mem.wfIn c)
    (h : hostLoad c b bytes s = .next t) : t.mem.wfIn c := by
  obtain ⟨-, hfit, rfl⟩ := hostLoad_next h
  exact Memory.set_wfIn hs hfit

/-- The memory after reset has the form. -/
theorem State.reset_mem_wf : State.reset.mem.wf := by decide

end Sys2Proof.Machine
end

