-- ==== Sys2Proof/Laws/Commands.lean ====
section
/-! SUPPORT. Laws/Commands.lean: for each command, once, everything it can do, and the same for `exec` and `step`. -/

namespace Sys2Proof.Machine

/-! ### The errors of the pure functions -/

theorem parseHeader_error {c : Config} {w : List Byte} {e : Err} (h : parseHeader c w = .error e) :
    e ∈ [Err.shortHdr, .badCookie, .reservedBits, .unsupMethod] := by
  unfold parseHeader at h
  simp only at h
  split_ifs at h <;> (injection h with h; subst h; decide)

theorem parseAttribute_error {c : Config} {w : List Byte} {e : Err} (h : parseAttribute c w = .error e) :
    e ∈ [Err.attrTrunc, .unknownType] := by
  unfold parseAttribute at h
  simp only at h
  split_ifs at h
  · injection h with h; subst h; decide
  · injection h with h; subst h; decide
  · split at h
    · injection h with h; subst h; decide
    · cases h

/-- What `generateHeader` answers: it fails only for a method other than Binding (42_header.md R147). -/
theorem generateHeader_eq (c : Config) (h : Header) :
    generateHeader c h =
      if h.method ≠ methodBinding then .error .unsupMethod
      else .ok (fieldBytes (scatterType c.typeLayout h.cls h.method) ++ fieldBytes h.length ++
        bigEndian magic.toNat 4 ++ bigEndian (txidWord h.transactionId 0).toNat 4 ++
        bigEndian (txidWord h.transactionId 1).toNat 4 ++ bigEndian (txidWord h.transactionId 2).toNat 4) := by
  unfold generateHeader packType
  simp only [numberToBytes_word16, numberToBytes_word32]
  rfl

/-- What `generateAttribute` answers (41_attribute.md R115). -/
theorem generateAttribute_eq (c : Config) (a : Attribute) :
    generateAttribute c a =
      if a.value.length ≠ a.length.toNat then .error .lenMismatch
      else
        match codeForName c.registry a.name with
        | none => .error .unknownName
        | some code =>
          .ok (fieldBytes code ++ fieldBytes a.length ++ a.value ++
            List.replicate (padCount a.length.toNat) 0x00#8) := by
  unfold generateAttribute
  simp only [numberToBytes_word16]
  rfl

/-- What `generateXorMappedAddress` answers (41_attribute.md R119). -/
theorem generateXorMappedAddress_eq (a : TransportAddress) :
    generateXorMappedAddress a =
      match a.family with
      | .ipv6 => .error .ipv6
      | .ipv4 =>
        match parseDottedQuad a.address with
        | none => .error .addrFormat
        | some o => .ok ([0x00#8, familyIpv4Byte] ++ fieldBytes (a.port ^^^ magicHigh) ++ xorOctets o) := by
  unfold generateXorMappedAddress
  simp only [numberToBytes_word16]
  rfl

theorem generateHeader_error {c : Config} {h : Header} {e : Err} (hh : generateHeader c h = .error e) :
    e = .unsupMethod := by
  rw [generateHeader_eq] at hh
  split at hh
  · injection hh with hh; exact hh.symm
  · cases hh

theorem generateAttribute_error {c : Config} {a : Attribute} {e : Err} (h : generateAttribute c a = .error e) :
    e ∈ [Err.lenMismatch, .unknownName] := by
  rw [generateAttribute_eq] at h
  split at h
  · injection h with h; subst h; decide
  · split at h
    · injection h with h; subst h; decide
    · cases h

theorem generateXorMappedAddress_error {a : TransportAddress} {e : Err}
    (h : generateXorMappedAddress a = .error e) : e ∈ [Err.ipv6, .addrFormat] := by
  rw [generateXorMappedAddress_eq] at h
  split at h
  · injection h with h; subst h; decide
  · split at h
    · injection h with h; subst h; decide
    · cases h

/-! ### The commands -/

/-- The state after a successful PARSEHDR on a window. -/
theorem parsehdrWith_ok {c : Config} {w : List Byte} {h : Header} (s : State) (hh : parseHeader c w = .ok h) :
    parsehdrWith c w s = .next { s with
      status := 0x00#8, hClass := h.cls, hMethod := h.method, hLength := h.length
      hTxid0 := BitVec.ofNat 32 (field w 8 12), hTxid1 := BitVec.ofNat 32 (field w 12 16)
      hTxid2 := BitVec.ofNat 32 (field w 16 20) } := by
  unfold parsehdrWith
  rw [hh]
  rfl

theorem parsehdrWith_error {c : Config} {w : List Byte} {e : Err} (s : State) (hh : parseHeader c w = .error e) :
    parsehdrWith c w s = .next { s with status := errCode e } := by
  unfold parsehdrWith
  rw [hh]
  rfl

theorem parseattrWith_ok {c : Config} {w : List Byte} {a : Attribute} (s : State)
    (h : parseAttribute c w = .ok a) :
    parseattrWith c w s = succeedWriting c .bufVal a.value { s with aType := a.name, aLength := a.length } := by
  unfold parseattrWith
  rw [h]
  rfl

theorem parseattrWith_error {c : Config} {w : List Byte} {e : Err} (s : State)
    (h : parseAttribute c w = .error e) : parseattrWith c w s = .next { s with status := errCode e } := by
  unfold parseattrWith
  rw [h]
  rfl

/-- Everything PARSEHDR can do on a window: it always answers a next state. -/
theorem parsehdrWith_next (c : Config) (w : List Byte) (s : State) :
    (∃ e, e ∈ [Err.shortHdr, .badCookie, .reservedBits, .unsupMethod] ∧ parseHeader c w = .error e ∧
      parsehdrWith c w s = .next { s with status := errCode e }) ∨
    (∃ h, parseHeader c w = .ok h ∧ parsehdrWith c w s = .next { s with
      status := 0x00#8, hClass := h.cls, hMethod := h.method, hLength := h.length
      hTxid0 := BitVec.ofNat 32 (field w 8 12), hTxid1 := BitVec.ofNat 32 (field w 12 16)
      hTxid2 := BitVec.ofNat 32 (field w 16 20) }) := by
  cases h : parseHeader c w with
  | error e => exact .inl ⟨e, parseHeader_error h, rfl, parsehdrWith_error s h⟩
  | ok r => exact .inr ⟨r, rfl, parsehdrWith_ok s h⟩

/-- Everything PARSEATTR can do on a window when it answers a next state. -/
theorem parseattrWith_next {c : Config} {w : List Byte} {s t : State} (h : parseattrWith c w s = .next t) :
    (∃ e, e ∈ [Err.attrTrunc, .unknownType] ∧ parseAttribute c w = .error e ∧ t = { s with status := errCode e }) ∨
    (∃ a, parseAttribute c w = .ok a ∧ a.value.length ≤ c.valCap ∧ t = { s with
      status := 0x00#8, aType := a.name, aLength := a.length, mem := { s.mem with bufVal := a.value } }) := by
  cases hp : parseAttribute c w with
  | error e =>
    rw [parseattrWith_error s hp] at h
    injection h with h
    exact .inl ⟨e, parseAttribute_error hp, rfl, h.symm⟩
  | ok a =>
    rw [parseattrWith_ok s hp] at h
    obtain ⟨hfit, rfl⟩ := succeedWriting_next h
    exact .inr ⟨a, rfl, hfit, rfl⟩

/-- Everything GENHDR can do when it answers a next state. -/
theorem genhdrWith_next {c : Config} {s t : State} (h : genhdrWith c s = .next t) :
    (generateHeader c (headerOperand s) = .error .unsupMethod ∧ t = { s with status := errCode .unsupMethod }) ∨
    (∃ bytes, generateHeader c (headerOperand s) = .ok bytes ∧ bytes.length ≤ c.outCap ∧
      t = { s with status := 0x00#8, mem := { s.mem with bufOut := bytes } }) := by
  unfold genhdrWith at h
  cases hp : generateHeader c (headerOperand s) with
  | error e =>
    rw [hp] at h
    injection h with h
    obtain rfl := generateHeader_error hp
    exact .inl ⟨rfl, h.symm⟩
  | ok bytes =>
    rw [hp] at h
    obtain ⟨hfit, rfl⟩ := succeedWriting_next h
    exact .inr ⟨bytes, rfl, hfit, rfl⟩

/-- Everything GENATTR can do when it answers a next state. -/
theorem genattrWith_next {c : Config} {s t : State} (h : genattrWith c s = .next t) :
    (∃ e, e ∈ [Err.lenMismatch, .unknownName] ∧ generateAttribute c (attributeOperand s) = .error e ∧
      t = { s with status := errCode e }) ∨
    (∃ bytes, generateAttribute c (attributeOperand s) = .ok bytes ∧ bytes.length ≤ c.outCap ∧
      t = { s with status := 0x00#8, mem := { s.mem with bufOut := bytes } }) := by
  unfold genattrWith at h
  cases hp : generateAttribute c (attributeOperand s) with
  | error e =>
    rw [hp] at h
    injection h with h
    exact .inl ⟨e, generateAttribute_error hp, rfl, h.symm⟩
  | ok bytes =>
    rw [hp] at h
    obtain ⟨hfit, rfl⟩ := succeedWriting_next h
    exact .inr ⟨bytes, rfl, hfit, rfl⟩

/-- Everything GENXMA can do when it answers a next state. -/
theorem genxmaWith_next {c : Config} {s t : State} (h : genxmaWith c s = .next t) :
    (∃ e, e ∈ [Err.ipv6, .addrFormat] ∧ generateXorMappedAddress (addressOperand s) = .error e ∧
      t = { s with status := errCode e }) ∨
    (∃ bytes, generateXorMappedAddress (addressOperand s) = .ok bytes ∧ bytes.length ≤ c.valCap ∧
      t = { s with status := 0x00#8, mem := { s.mem with bufVal := bytes } }) := by
  unfold genxmaWith at h
  cases hp : generateXorMappedAddress (addressOperand s) with
  | error e =>
    rw [hp] at h
    injection h with h
    exact .inl ⟨e, generateXorMappedAddress_error hp, rfl, h.symm⟩
  | ok bytes =>
    rw [hp] at h
    obtain ⟨hfit, rfl⟩ := succeedWriting_next h
    exact .inr ⟨bytes, rfl, hfit, rfl⟩

/-- Everything RMPAD can do when it answers a next state. -/
theorem rmpadWith_next {c : Config} {s t : State} (h : rmpadWith c s = .next t) :
    (removePadding s.mem.bufVal).length ≤ c.valCap ∧
      t = { s with status := 0x00#8, mem := { s.mem with bufVal := removePadding s.mem.bufVal } } := by
  obtain ⟨hfit, rfl⟩ := succeedWriting_next h
  exact ⟨hfit, rfl⟩

/-! ### `exec` and `step` -/

/-- A row of format MSGTYPE16 is the header decoder on IN with the row's word in front. -/
theorem exec_msgType16 {i : Instr} (h : i.format = .msgType16) (s : State) :
    exec i s = parsehdrWith unitConfig (encode i ++ s.mem.bufIn.drop 2) s := by
  cases i <;> first | rfl | cases h

/-- A row of format ATTRTYPE16 is the attribute decoder on IN with the row's word in front. -/
theorem exec_attrType16 {i : Instr} (h : i.format = .attrType16) (s : State) :
    exec i s = parseattrWith unitConfig (encode i ++ s.mem.bufIn.drop 2) s := by
  cases i <;> first | rfl | cases h

/-- Everything any instruction can do when it answers a next state: raise an error, write the header registers, write
an attribute, write VAL alone, or write OUT alone. -/
theorem exec_next {i : Instr} {s t : State} (h : exec i s = .next t) :
    (∃ e ∈ commandErrors, t = { s with status := errCode e }) ∨
    (∃ cls method length a b d, t = { s with
      status := 0x00#8, hClass := cls, hMethod := method, hLength := length
      hTxid0 := a, hTxid1 := b, hTxid2 := d }) ∨
    (∃ name length value, value.length ≤ unitConfig.valCap ∧ t = { s with
      status := 0x00#8, aType := name, aLength := length, mem := { s.mem with bufVal := value } }) ∨
    (∃ value, value.length ≤ unitConfig.valCap ∧
      t = { s with status := 0x00#8, mem := { s.mem with bufVal := value } }) ∨
    (∃ bytes, bytes.length ≤ unitConfig.outCap ∧
      t = { s with status := 0x00#8, mem := { s.mem with bufOut := bytes } }) := by
  have header : ∀ w, parsehdrWith unitConfig w s = .next t →
      (∃ e ∈ commandErrors, t = { s with status := errCode e }) ∨
      (∃ cls method length a b d, t = { s with
        status := 0x00#8, hClass := cls, hMethod := method, hLength := length
        hTxid0 := a, hTxid1 := b, hTxid2 := d }) := by
    intro w hw
    rcases parsehdrWith_next unitConfig w s with ⟨e, he, -, h'⟩ | ⟨r, -, h'⟩
    · rw [h'] at hw
      injection hw with hw
      exact .inl ⟨e, by revert he; cases e <;> decide, hw.symm⟩
    · rw [h'] at hw
      injection hw with hw
      exact .inr ⟨_, _, _, _, _, _, hw.symm⟩
  have attr : ∀ w, parseattrWith unitConfig w s = .next t →
      (∃ e ∈ commandErrors, t = { s with status := errCode e }) ∨
      (∃ name length value, value.length ≤ unitConfig.valCap ∧ t = { s with
        status := 0x00#8, aType := name, aLength := length, mem := { s.mem with bufVal := value } }) := by
    intro w hw
    rcases parseattrWith_next hw with ⟨e, he, -, h'⟩ | ⟨a, -, hfit, h'⟩
    · exact .inl ⟨e, by revert he; cases e <;> decide, h'⟩
    · exact .inr ⟨_, _, _, hfit, h'⟩
  cases hf : i.format with
  | msgType16 =>
    rw [exec_msgType16 hf] at h
    rcases header _ h with h | h
    · exact .inl h
    · exact .inr (.inl h)
  | attrType16 =>
    rw [exec_attrType16 hf] at h
    rcases attr _ h with h | h
    · exact .inl h
    · exact .inr (.inr (.inl h))
  | cmd8 =>
    cases i <;> first | (cases hf; done) | skip
    case parsehdr =>
      rcases header _ h with h | h
      · exact .inl h
      · exact .inr (.inl h)
    case genhdr =>
      rcases genhdrWith_next h with ⟨-, rfl⟩ | ⟨bytes, -, hfit, rfl⟩
      · exact .inl ⟨.unsupMethod, by decide, rfl⟩
      · exact .inr (.inr (.inr (.inr ⟨bytes, hfit, rfl⟩)))
    case parseattr =>
      rcases attr _ h with h | h
      · exact .inl h
      · exact .inr (.inr (.inl h))
    case genattr =>
      rcases genattrWith_next h with ⟨e, he, -, rfl⟩ | ⟨bytes, -, hfit, rfl⟩
      · exact .inl ⟨e, by revert he; cases e <;> decide, rfl⟩
      · exact .inr (.inr (.inr (.inr ⟨bytes, hfit, rfl⟩)))
    case genxma =>
      rcases genxmaWith_next h with ⟨e, he, -, rfl⟩ | ⟨bytes, -, hfit, rfl⟩
      · exact .inl ⟨e, by revert he; cases e <;> decide, rfl⟩
      · exact .inr (.inr (.inr (.inl ⟨bytes, hfit, rfl⟩)))
    case rmpad =>
      obtain ⟨hfit, rfl⟩ := rmpadWith_next h
      exact .inr (.inr (.inr (.inl ⟨_, hfit, rfl⟩)))
    case illegal =>
      injection h with h
      exact .inl ⟨.illegalCmd, by decide, h.symm⟩

end Sys2Proof.Machine
end

