-- ==== Sys2Proof/Laws/MessageType.lean ====
section
/-! SUPPORT. Laws/MessageType.lean: the bits of the message-type field and of the words it is made of. -/

namespace Sys2Proof.Machine

theorem bitsToNumber_lt (bs : List Bool) : bitsToNumber bs < 2 ^ bs.length := by
  induction bs with
  | nil => simp [bitsToNumber]
  | cons b bs ih =>
    simp only [bitsToNumber, List.length_cons, pow_succ]
    cases b <;> simp <;> omega

/-- Bit `i` of the number is the boolean `i` places from the right (40_conversion.md R93). -/
theorem bitsToNumber_testBit (bs : List Bool) (i : Nat) :
    (bitsToNumber bs).testBit i = (bs.reverse[i]?).getD false := by
  induction bs with
  | nil => simp [bitsToNumber]
  | cons b bs ih =>
    simp only [bitsToNumber]
    rw [Nat.mul_comm, Nat.testBit_two_pow_mul_add _ (bitsToNumber_lt bs), ih]
    simp only [List.reverse_cons, List.getElem?_append, List.length_reverse]
    split
    · rfl
    · cases b <;> rcases i - bs.length with _ | k <;> simp [Nat.testBit_succ]

/-- The bits of a field picked out of a bit sequence by MSB-first indices. -/
theorem pickBits_getLsbD (n : Nat) (t : List Bool) (indices : List Nat) (i : Nat) :
    (BitVec.ofNat n (pickBits t indices)).getLsbD i =
      (decide (i < n) && ((indices.reverse[i]?).map (t.getD · false)).getD false) := by
  rw [BitVec.getLsbD_ofNat, pickBits, bitsToNumber_testBit, ← List.map_reverse, List.getElem?_map]

/-- The bits of a 16-bit word made of two bytes. -/
theorem word16_getLsbD (a b : Byte) (i : Nat) :
    (word16 a b).getLsbD i = if i < 8 then b.getLsbD i else a.getLsbD (i - 8) :=
  BitVec.getLsbD_append

theorem word16_getElem (a b : Byte) (i : Nat) (h : i < 16) :
    (word16 a b)[i] = if i < 8 then b.getLsbD i else a.getLsbD (i - 8) := by
  rw [← word16_getLsbD, BitVec.getLsbD_eq_getElem]

/-- Gathering a scattered field gives back its class and method, reserved bits zero (42_header.md R143). -/
theorem gatherType_scatterType (layout : TypeLayout) (cls : ClassCode) (method : MethodCode) :
    gatherType layout (scatterType layout cls method) = { reserved := 0#2, cls := cls, method := method } := by
  cases layout
  all_goals
    simp only [gatherType, TypeField.mk.injEq]
    refine ⟨?_, ?_, ?_⟩
    all_goals
      apply BitVec.eq_of_getLsbD_eq
      intro i hi
      interval_cases i <;> simp [scatterType]

/-- A field whose reserved bits are zero is the scatter of its class and method (42_header.md R143). -/
theorem scatterType_gatherType {layout : TypeLayout} {w : Word16} {cls : ClassCode} {method : MethodCode}
    (h : gatherType layout w = { reserved := 0#2, cls := cls, method := method }) :
    scatterType layout cls method = w := by
  have hr : w.extractLsb' 14 2 = 0#2 := by cases layout <;> exact congrArg TypeField.reserved h
  have h0 : w.getLsbD 14 = false := by simpa using congrArg (·.getLsbD 0) hr
  have h1 : w.getLsbD 15 = false := by simpa using congrArg (·.getLsbD 1) hr
  obtain rfl := congrArg TypeField.cls h
  obtain rfl := congrArg TypeField.method h
  cases layout
  all_goals
    apply BitVec.eq_of_getLsbD_eq
    intro i hi
    interval_cases i <;> simp_all [scatterType, gatherType]

end Sys2Proof.Machine
end

