-- ==== Sys2Proof/Laws/Registry.lean ====
section
/-! SUPPORT. Laws/Registry.lean: what the two registry lookups answer, said once as membership of a row. -/

namespace Sys2Proof.Machine

/-- With pairwise distinct codes, the name of a code is the one in its row (41_attribute.md R111). -/
theorem nameForCode_eq_some {r : List RegistryRow} (h : (r.map (·.code)).Nodup) {code : Word16} {name : NameId} :
    nameForCode r code = some name ↔ { code := code, name := name } ∈ r := by
  induction r with
  | nil => simp [nameForCode]
  | cons row r ih =>
    obtain ⟨hrow, hr⟩ := List.nodup_cons.mp h
    have ih := ih hr
    unfold nameForCode at ih ⊢
    rw [List.find?_cons, List.mem_cons]
    by_cases hc : row.code = code
    · subst hc
      have : { code := row.code, name := name } ∉ r := fun hm => hrow (List.mem_map.mpr ⟨_, hm, rfl⟩)
      cases row
      simp_all [eq_comm]
    · have hb : (row.code == code) = false := by simpa using hc
      have hne : { code := code, name := name } ≠ row := fun e => hc (e ▸ rfl)
      simp [hb, hne, ih]

/-- With pairwise distinct names, the code of a name is the one in its row (41_attribute.md R112). -/
theorem codeForName_eq_some {r : List RegistryRow} (h : (r.map (·.name)).Nodup) {code : Word16} {name : NameId} :
    codeForName r name = some code ↔ { code := code, name := name } ∈ r := by
  induction r with
  | nil => simp [codeForName]
  | cons row r ih =>
    obtain ⟨hrow, hr⟩ := List.nodup_cons.mp h
    have ih := ih hr
    unfold codeForName at ih ⊢
    rw [List.find?_cons, List.mem_cons]
    by_cases hc : row.name = name
    · subst hc
      have : { code := code, name := row.name } ∉ r := fun hm => hrow (List.mem_map.mpr ⟨_, hm, rfl⟩)
      cases row
      simp_all [eq_comm]
    · have hb : (row.name == name) = false := by simpa using hc
      have hne : { code := code, name := name } ≠ row := fun e => hc (e ▸ rfl)
      simp [hb, hne, ih]

/-- A code that stands in no row is absent (41_attribute.md R111). -/
theorem nameForCode_eq_none {r : List RegistryRow} {code : Word16} :
    nameForCode r code = none ↔ code ∉ r.map (·.code) := by
  simp [nameForCode]

/-- A name that stands in no row is absent (41_attribute.md R112). -/
theorem codeForName_eq_none {r : List RegistryRow} {name : NameId} :
    codeForName r name = none ↔ name ∉ r.map (·.name) := by
  simp [codeForName]

/-- What an admissible registry is (30_encoding.md R76). -/
theorem registryAdmissible_iff {r : List RegistryRow} :
    registryAdmissible r = true ↔
      r.map (·.name) = [0#4, 1#4, 2#4, 3#4, 4#4, 5#4, 6#4, 7#4] ∧ (r.map (·.code)).Nodup ∧
        0xFFFF#16 ∉ r.map (·.code) := by
  simp [registryAdmissible, and_assoc]

/-- The eight names of an admissible registry are pairwise distinct. -/
theorem registryAdmissible_names_nodup {r : List RegistryRow} (h : registryAdmissible r = true) :
    (r.map (·.name)).Nodup := by
  rw [(registryAdmissible_iff.mp h).1]
  decide

/-- The unit's registry is admissible. -/
theorem unitConfig_admissible : registryAdmissible unitConfig.registry = true := by decide

end Sys2Proof.Machine
end

