-- ==== Sys2Proof/Laws/Codec.lean ====
section
/-! SUPPORT. Laws/Codec.lean: what the codec's pure functions answer: lengths, and their reading of a window. -/

namespace Sys2Proof.Machine

/-- The big-endian bytes of a number give it back modulo the width. -/
theorem bytesToNumber_bigEndian (n k : Nat) : bytesToNumber (bigEndian n k) = n % 256 ^ k := by
  induction k with
  | zero => simp [bigEndian, bytesToNumber, Nat.mod_one]
  | succ k ih =>
    simp only [bigEndian, bytesToNumber, bigEndian_length, ih, BitVec.toNat_ofNat]
    rw [Nat.pow_succ 256 k, Nat.mod_mul (a := 256 ^ k) (b := 256)]
    change (n / 256 ^ k % 256) * 256 ^ k + _ = _
    rw [Nat.mul_comm, Nat.add_comm]

/-- A field of at most `n` bytes is below `256 ^ n`. -/
theorem field_lt {w : List Byte} {a b n : Nat} (h : b - a ≤ n) : field w a b < 256 ^ n := by
  unfold field slice
  refine (bytesToNumber_lt _).trans_le (Nat.pow_le_pow_right (by norm_num) ?_)
  simp
  omega

theorem ofNat_bytesToNumber_pair (a b : Byte) : BitVec.ofNat 16 (bytesToNumber [a, b]) = word16 a b := by
  rw [bytesToNumber_pair, BitVec.ofNat_toNat, BitVec.setWidth_eq]

theorem ofNat_bytesToNumber_quad (a b c d : Byte) :
    BitVec.ofNat 32 (bytesToNumber [a, b, c, d]) = word32 a b c d := by
  rw [bytesToNumber_quad, BitVec.ofNat_toNat, BitVec.setWidth_eq]

/-- Everything a successful `parseAttribute` says of its result (41_attribute.md R113). -/
theorem parseAttribute_ok {c : Config} {w : List Byte} {a : Attribute} (h : parseAttribute c w = .ok a) :
    a.value.length = a.length.toNat ∧ 4 + a.length.toNat ≤ w.length ∧ a.value = (w.drop 4).take a.length.toNat ∧
      a.length = BitVec.ofNat 16 (field w 2 4) ∧
      nameForCode c.registry (BitVec.ofNat 16 (field w 0 2)) = some a.name := by
  unfold parseAttribute at h
  simp only at h
  split_ifs at h with h1 h2
  split at h
  · cases h
  · injection h with h
    subst h
    have hlt := field_lt (w := w) (a := 2) (b := 4) (n := 2) (by norm_num)
    have e : (BitVec.ofNat 16 (field w 2 4)).toNat = field w 2 4 := by simp; omega
    simp only [slice, tlvHdrLen] at *
    rw [e]
    refine ⟨?_, by omega, by simp, trivial, by assumption⟩
    simp
    omega

theorem generateHeader_length {c : Config} {h : Header} {bytes : List Byte} (hh : generateHeader c h = .ok bytes) :
    bytes.length = 20 := by
  rw [generateHeader_eq] at hh
  split at hh
  · cases hh
  · injection hh with hh
    subst hh
    simp

theorem generateAttribute_length {c : Config} {a : Attribute} {bytes : List Byte}
    (hh : generateAttribute c a = .ok bytes) :
    a.value.length = a.length.toNat ∧ bytes.length = 4 + a.length.toNat + (4 - a.length.toNat % 4) % 4 := by
  rw [generateAttribute_eq] at hh
  split at hh
  · cases hh
  · split at hh
    · cases hh
    · injection hh with hh
      subst hh
      simp_all [padCount, padAlign]
      omega

theorem generateXorMappedAddress_length {a : TransportAddress} {bytes : List Byte}
    (hh : generateXorMappedAddress a = .ok bytes) : bytes.length = 8 := by
  rw [generateXorMappedAddress_eq] at hh
  split at hh
  · cases hh
  · split at hh
    · cases hh
    · injection hh with hh
      subst hh
      simp [xorOctets, magicBytes]

theorem removePadding_length (value : List Byte) : (removePadding value).length ≤ value.length := by
  unfold removePadding
  simpa using (List.dropWhile_suffix (l := value.reverse) (fun x => x == 0x00#8)).length_le

/-- A header window, byte by byte. -/
theorem headerWindow_eq (b0 b1 l0 l1 : Byte) (t : Fin 12 → Byte) (rest : List Byte) :
    headerWindow b0 b1 l0 l1 t rest =
      b0 :: b1 :: l0 :: l1 :: 0x21#8 :: 0x12#8 :: 0xA4#8 :: 0x42#8 :: t 0 :: t 1 :: t 2 :: t 3 :: t 4 :: t 5 :: t 6 ::
        t 7 :: t 8 :: t 9 :: t 10 :: t 11 :: rest := by
  simp [headerWindow, List.ofFn_succ]

/-- What `parseHeader` answers on a header window (42_header.md R144). -/
theorem parseHeader_headerWindow (c : Config) (b0 b1 l0 l1 : Byte) (t : Fin 12 → Byte) (rest : List Byte) :
    parseHeader c (headerWindow b0 b1 l0 l1 t rest) =
      if (unpackType c.typeLayout b0 b1).reserved ≠ 0#2 then .error .reservedBits
      else if (unpackType c.typeLayout b0 b1).method ≠ methodBinding then .error .unsupMethod
      else .ok
        { cls := (unpackType c.typeLayout b0 b1).cls
          method := (unpackType c.typeLayout b0 b1).method
          length := word16 l0 l1
          transactionId := BitVec.ofNat 96 (bytesToNumber
            [t 0, t 1, t 2, t 3, t 4, t 5, t 6, t 7, t 8, t 9, t 10, t 11]) } := by
  rw [headerWindow_eq]
  unfold parseHeader
  rw [if_neg (by simp [hdrLen])]
  have cookie : field (b0 :: b1 :: l0 :: l1 :: 0x21#8 :: 0x12#8 :: 0xA4#8 :: 0x42#8 :: t 0 :: t 1 :: t 2 :: t 3 ::
      t 4 :: t 5 :: t 6 :: t 7 :: t 8 :: t 9 :: t 10 :: t 11 :: rest) 4 8 = magic.toNat := by
    change bytesToNumber [0x21#8, 0x12#8, 0xA4#8, 0x42#8] = _
    decide
  rw [if_neg (by rw [cookie]; simp), ← ofNat_bytesToNumber_pair]
  rfl

/-- The three transaction-id words of a header window. -/
theorem field_headerWindow (b0 b1 l0 l1 : Byte) (t : Fin 12 → Byte) (rest : List Byte) :
    BitVec.ofNat 32 (field (headerWindow b0 b1 l0 l1 t rest) 8 12) = word32 (t 0) (t 1) (t 2) (t 3) ∧
    BitVec.ofNat 32 (field (headerWindow b0 b1 l0 l1 t rest) 12 16) = word32 (t 4) (t 5) (t 6) (t 7) ∧
    BitVec.ofNat 32 (field (headerWindow b0 b1 l0 l1 t rest) 16 20) = word32 (t 8) (t 9) (t 10) (t 11) := by
  rw [headerWindow_eq]
  refine ⟨?_, ?_, ?_⟩ <;> rw [← ofNat_bytesToNumber_quad] <;> rfl

/-- What `parseAttribute` answers on an attribute window (41_attribute.md R113). -/
theorem parseAttribute_attributeWindow (c : Config) (c0 c1 l0 l1 : Byte) (rest : List Byte) :
    parseAttribute c (attributeWindow c0 c1 l0 l1 rest) =
      if rest.length < (word16 l0 l1).toNat then .error .attrTrunc
      else
        match nameForCode c.registry (word16 c0 c1) with
        | none => .error .unknownType
        | some name =>
          .ok { name := name, length := word16 l0 l1, value := rest.take (word16 l0 l1).toNat } := by
  unfold parseAttribute attributeWindow
  rw [if_neg (by simp [tlvHdrLen])]
  have h1 : field ([c0, c1, l0, l1] ++ rest) 0 2 = (word16 c0 c1).toNat := by rw [← bytesToNumber_pair]; rfl
  have h2 : field ([c0, c1, l0, l1] ++ rest) 2 4 = (word16 l0 l1).toNat := by rw [← bytesToNumber_pair]; rfl
  have e : ∀ n, ([c0, c1, l0, l1] ++ rest).length < tlvHdrLen + n ↔ rest.length < n := by
    intro n
    simp [tlvHdrLen]
    omega
  simp only [h1, h2, BitVec.ofNat_toNat, BitVec.setWidth_eq, e]
  split
  · rfl
  · congr 1
    simp [slice, tlvHdrLen]

/-- Cutting at the first dot. -/
theorem splitDots_field {f : List Byte} (rest : List Byte) (h : 0x2E#8 ∉ f) :
    splitDots (f ++ 0x2E#8 :: rest) = f :: splitDots rest := by
  induction f with
  | nil => simp [splitDots, dot]
  | cons a f ih =>
    rw [List.mem_cons, not_or] at h
    rw [List.cons_append, splitDots, if_neg (by simpa [dot, eq_comm] using h.1), ih h.2]

/-- A sequence without a dot is one field. -/
theorem splitDots_last {f : List Byte} (h : 0x2E#8 ∉ f) : splitDots f = [f] := by
  induction f with
  | nil => rfl
  | cons a f ih =>
    rw [List.mem_cons, not_or] at h
    rw [splitDots, if_neg (by simpa [dot, eq_comm] using h.1), ih h.2]

end Sys2Proof.Machine
end

