-- ==== Sys2Proof/Laws/Address.lean ====
section
/-! SUPPORT. Laws/Address.lean: `parseDottedQuad` reads every string of the grammar (41_attribute.md R118). -/

namespace Sys2Proof.Machine

theorem digit_toNat {d : Nat} (h : d < 10) : (BitVec.ofNat 8 (0x30 + d)).toNat = 0x30 + d := by
  simp
  omega

/-- The running value of a row of ASCII digits. -/
theorem foldl_digits (ds : List Nat) (h : ∀ d ∈ ds, d < 10) (a : Nat) :
    (ds.map (fun d => BitVec.ofNat 8 (0x30 + d))).foldl (fun n (b : Byte) => 10 * n + (b.toNat - 0x30)) a =
      a * 10 ^ ds.length + Nat.ofDigits 10 ds.reverse := by
  induction ds generalizing a with
  | nil => simp
  | cons d ds ih =>
    simp only [List.map_cons, List.foldl_cons, List.reverse_cons, Nat.ofDigits_append, List.length_cons]
    rw [ih (fun x hx => h x (List.mem_cons_of_mem _ hx)), digit_toNat (h d List.mem_cons_self)]
    simp [pow_succ]
    ring

/-- A field of the grammar parses to its value, holds no dot, and is at most 255. -/
theorem parseOctet_octetField {f : List Byte} {value : Nat} (h : OctetField f value) :
    parseOctet f = some (BitVec.ofNat 8 value) ∧ 0x2E#8 ∉ f ∧ value ≤ 255 := by
  obtain ⟨ds, h1, h3, hd, rfl, hv, rfl⟩ := h
  have hval : decimalValue (ds.map (fun d => BitVec.ofNat 8 (0x30 + d))) = Nat.ofDigits 10 ds.reverse := by
    unfold decimalValue
    rw [foldl_digits ds hd]
    simp
  refine ⟨?_, ?_, hv⟩
  · have hall : (ds.map (fun d => BitVec.ofNat 8 (0x30 + d))).all isDigit = true := by
      rw [List.all_eq_true]
      intro b hb
      obtain ⟨d, hm, rfl⟩ := List.mem_map.mp hb
      have hlt := hd d hm
      unfold isDigit
      rw [digit_toNat hlt]
      simp
      omega
    unfold parseOctet
    rw [if_neg (by rw [List.length_map]; omega), hall, hval, if_neg (by decide), if_neg (Nat.not_lt.mpr hv)]
  · intro hm
    obtain ⟨d, hm, he⟩ := List.mem_map.mp hm
    have hn := congrArg BitVec.toNat he
    rw [digit_toNat (hd d hm)] at hn
    simp at hn
    omega

/-- A string of the grammar parses to its four octets. -/
theorem parseDottedQuad_dottedQuad {s : List Byte} {o0 o1 o2 o3 : Nat} (h : DottedQuad s o0 o1 o2 o3) :
    parseDottedQuad s =
      some { o0 := BitVec.ofNat 8 o0, o1 := BitVec.ofNat 8 o1, o2 := BitVec.ofNat 8 o2, o3 := BitVec.ofNat 8 o3 } := by
  obtain ⟨f0, f1, f2, f3, h0, h1, h2, h3, rfl⟩ := h
  obtain ⟨a0, b0, -⟩ := parseOctet_octetField h0
  obtain ⟨a1, b1, -⟩ := parseOctet_octetField h1
  obtain ⟨a2, b2, -⟩ := parseOctet_octetField h2
  obtain ⟨a3, b3, -⟩ := parseOctet_octetField h3
  unfold parseDottedQuad
  rw [splitDots_field _ b0, splitDots_field _ b1, splitDots_field _ b2, splitDots_last b3]
  simp only [a0, a1, a2, a3]

/-- What `parseDottedQuad` refuses is no string of the grammar. -/
theorem not_dottedQuad {s : List Byte} (h : parseDottedQuad s = none) (o0 o1 o2 o3 : Nat) :
    ¬ DottedQuad s o0 o1 o2 o3 := by
  intro hq
  rw [parseDottedQuad_dottedQuad hq] at h
  cases h

end Sys2Proof.Machine
end

