-- ==== Sys2Proof/Laws/PerInstr.lean ====
section
/-! SUPPORT. Laws/PerInstr.lean: statements for all instructions, one lemma per constructor. -/

namespace Sys2Proof.Laws.EncodeLength

open Sys2Proof.Machine

/-- The word of an instruction has as many bytes as its row's format (30_encoding.md R84). -/
def Statement (i : Instr) : Prop := (encode i).length = formatBytes i.format

theorem parsehdr : Statement .parsehdr := rfl
theorem genhdr : Statement .genhdr := rfl
theorem parseattr : Statement .parseattr := rfl
theorem genattr : Statement .genattr := rfl
theorem genxma : Statement .genxma := rfl
theorem rmpad : Statement .rmpad := rfl
theorem illegal (opcode : Byte) : Statement (.illegal opcode) := rfl
theorem bindingRequest : Statement .bindingRequest := fieldBytes_length _
theorem bindingIndication : Statement .bindingIndication := fieldBytes_length _
theorem bindingSuccess : Statement .bindingSuccess := fieldBytes_length _
theorem bindingError : Statement .bindingError := fieldBytes_length _
theorem msgtype (cls : ClassCode) (method : MethodCode) : Statement (.msgtype cls method) := fieldBytes_length _
theorem mappedAddress : Statement .mappedAddress := fieldBytes_length _
theorem username : Statement .username := fieldBytes_length _
theorem messageIntegrity : Statement .messageIntegrity := fieldBytes_length _
theorem errorCode : Statement .errorCode := fieldBytes_length _
theorem unknownAttributes : Statement .unknownAttributes := fieldBytes_length _
theorem realm : Statement .realm := fieldBytes_length _
theorem nonce : Statement .nonce := fieldBytes_length _
theorem xorMappedAddress : Statement .xorMappedAddress := fieldBytes_length _
theorem unknown (code : Word16) : Statement (.unknown code) := fieldBytes_length _

end Sys2Proof.Laws.EncodeLength
end

