-- ==== Sys2Proof/Laws/Step.lean ====
section
/-! SUPPORT. Laws/Step.lean: a step with an action pending, and a run cut into its steps. -/

namespace Sys2Proof.Machine

/-- A step performs the next pending action, taken off the script first. -/
theorem step_cons {s : State} {a : HostAction} {rest : List HostAction} (h : s.script = a :: rest) :
    step s = perform a (s.setScript rest) := by
  unfold step stepAction
  rw [h]

/-- A step that writes CMD is the command, on the state with the rest of the script. -/
theorem step_cmd {s : State} {op : Byte} {rest : List HostAction} (h : s.script = .cmd op :: rest) :
    step s = exec (commandOf op) { s with script := rest } := by
  rw [step_cons h]
  rfl

/-- The first step of a run. -/
theorem run_succ (M : Host.Core) (k : Nat) (s t : M.State) (h : M.step s = .next t) :
    M.run (k + 1) s = M.run k t := by
  rw [Host.Core.run, h]

end Sys2Proof.Machine
end

