-- ==== Sys2Proof/Tests/Slice0.lean ====
section
/-! SUPPORT. Tests/Slice0.lean: the model's own tests. Expected results are the rows of spec/95_test_vectors.md, named
by their ids, or are worked out by hand from the encoding tables; the last part shows that no statement is empty. -/

namespace Sys2Proof.Tests

open Sys2Proof.Machine

/-! ### Building states -/

/-- The reset state with IN loaded. -/
def withIn (bytes : List Byte) : State :=
  { State.reset with mem := { bufIn := bytes, bufVal := [], bufOut := [], bufXaddr := [] } }

/-- The reset state with VAL loaded, and the two attribute registers set. -/
def withVal (type : NameId) (length : Word16) (bytes : List Byte) : State :=
  { State.reset with
    aType := type, aLength := length, mem := { bufIn := [], bufVal := bytes, bufOut := [], bufXaddr := [] } }

/-- The reset state with an address: a bit for the family, the port and the string. -/
def withAddress (family : BitVec 1) (port : Word16) (text : List Byte) : State :=
  { State.reset with
    xFamily := family, xPort := port, mem := { bufIn := [], bufVal := [], bufOut := [], bufXaddr := text } }

/-- The reset state with the header registers set, the transaction id of the vectors among them. -/
def withHeader (cls : ClassCode) (method : MethodCode) (length : Word16) : State :=
  { State.reset with
    hClass := cls, hMethod := method, hLength := length
    hTxid0 := 0x00010203#32, hTxid1 := 0x04050607#32, hTxid2 := 0x08090A0B#32 }

/-- The reset state with actions pending. -/
def withScript (script : List HostAction) : State := { State.reset with script := script }

/-- `TX` of the vectors. -/
def tx : List Byte :=
  [0x00#8, 0x01#8, 0x02#8, 0x03#8, 0x04#8, 0x05#8, 0x06#8, 0x07#8, 0x08#8, 0x09#8, 0x0A#8, 0x0B#8]

/-- `CK` of the vectors. -/
def ck : List Byte := [0x21#8, 0x12#8, 0xA4#8, 0x42#8]

/-- A header window of the vectors: four bytes, the cookie, `TX`. -/
def hdr (b0 b1 l0 l1 : Byte) : List Byte := [b0, b1, l0, l1] ++ ck ++ tx

/-- The next state of an outcome, if there is one. -/
def nextOf (r : Result) : Option State :=
  match r with
  | .next s => some s
  | _ => none

theorem nextOf_eq {r : Result} {s : State} (h : nextOf r = some s) : r = .next s := by
  cases r <;> simp_all [nextOf]

/-- "192.0.2.1" -/
def quad : List Byte := [0x31#8, 0x39#8, 0x32#8, 0x2E#8, 0x30#8, 0x2E#8, 0x32#8, 0x2E#8, 0x31#8]

/-- "0.0.0.0" -/
def quadLow : List Byte := [0x30#8, 0x2E#8, 0x30#8, 0x2E#8, 0x30#8, 0x2E#8, 0x30#8]

/-- "255.255.255.255" -/
def quadHigh : List Byte :=
  [0x32#8, 0x35#8, 0x35#8, 0x2E#8, 0x32#8, 0x35#8, 0x35#8, 0x2E#8, 0x32#8, 0x35#8, 0x35#8, 0x2E#8, 0x32#8, 0x35#8,
    0x35#8]

/-- The value of S2 and X1. -/
def xma : List Byte := [0x00#8, 0x01#8, 0xA1#8, 0x47#8, 0xE1#8, 0x12#8, 0xA6#8, 0x43#8]

/-! ### Ill-formed terms are refused (30_encoding.md R67, R76, R80) -/

theorem test_wf_refuses_illegal_1 : ¬ WellFormed (.illegal 0x01#8) := by decide
theorem test_wf_refuses_illegal_6 : ¬ WellFormed (.illegal 0x06#8) := by decide
theorem test_wf_accepts_illegal_0 : WellFormed (.illegal 0x00#8) := by decide
theorem test_wf_accepts_illegal_7 : WellFormed (.illegal 0x07#8) := by decide
theorem test_wf_refuses_msgtype_binding : ¬ WellFormed (.msgtype 0b10#2 0x001#12) := by decide
theorem test_wf_accepts_msgtype_zero : WellFormed (.msgtype 0b10#2 0x000#12) := by decide
theorem test_wf_refuses_unknown_username : ¬ WellFormed (.unknown 0x0006#16) := by decide
theorem test_wf_accepts_unknown_ffff : WellFormed (.unknown 0xFFFF#16) := by decide

/-! ### Decoding: a word of each row, written out from 30_encoding.md R61, R67, R75, R76, R79, R80 -/

theorem test_decode_parsehdr : decode .cmd8 [0b00000001#8] = .ok (.parsehdr, []) := rfl
theorem test_decode_genhdr : decode .cmd8 [0b00000010#8] = .ok (.genhdr, []) := rfl
theorem test_decode_parseattr : decode .cmd8 [0b00000011#8] = .ok (.parseattr, []) := rfl
theorem test_decode_genattr : decode .cmd8 [0b00000100#8] = .ok (.genattr, []) := rfl
theorem test_decode_genxma : decode .cmd8 [0b00000101#8] = .ok (.genxma, []) := rfl
theorem test_decode_rmpad : decode .cmd8 [0b00000110#8] = .ok (.rmpad, []) := rfl
theorem test_decode_illegal_0 : decode .cmd8 [0b00000000#8] = .ok (.illegal 0x00#8, []) := rfl
theorem test_decode_illegal_255 : decode .cmd8 [0b11111111#8] = .ok (.illegal 0xFF#8, []) := rfl
theorem test_decode_request : decode .msgType16 [0b00000000#8, 0b00000001#8] = .ok (.bindingRequest, []) := rfl
theorem test_decode_indication : decode .msgType16 [0b00000000#8, 0b00010001#8] = .ok (.bindingIndication, []) := rfl
theorem test_decode_success : decode .msgType16 [0b00000001#8, 0b00000001#8] = .ok (.bindingSuccess, []) := rfl
theorem test_decode_error : decode .msgType16 [0b00000001#8, 0b00010001#8] = .ok (.bindingError, []) := rfl
-- T16: class 0, method 0x555; T17: class 3, method 0xAAA
theorem test_decode_msgtype_t16 :
    decode .msgType16 [0b00010100#8, 0b10100101#8] = .ok (.msgtype 0b00#2 0x555#12, []) := rfl
theorem test_decode_msgtype_t17 :
    decode .msgType16 [0b00101011#8, 0b01011010#8] = .ok (.msgtype 0b11#2 0xAAA#12, []) := rfl
theorem test_decode_reserved_01 : decode .msgType16 [0b01000000#8, 0b00000001#8] = .error .reservedBits := rfl
theorem test_decode_reserved_10 : decode .msgType16 [0b10000000#8, 0b00000001#8] = .error .reservedBits := rfl
theorem test_decode_mapped_address :
    decode .attrType16 [0b00000000#8, 0b00000001#8] = .ok (.mappedAddress, []) := rfl
theorem test_decode_username : decode .attrType16 [0b00000000#8, 0b00000110#8] = .ok (.username, []) := rfl
theorem test_decode_message_integrity :
    decode .attrType16 [0b00000000#8, 0b00001000#8] = .ok (.messageIntegrity, []) := rfl
theorem test_decode_error_code : decode .attrType16 [0b00000000#8, 0b00001001#8] = .ok (.errorCode, []) := rfl
theorem test_decode_unknown_attributes :
    decode .attrType16 [0b00000000#8, 0b00001010#8] = .ok (.unknownAttributes, []) := rfl
theorem test_decode_realm : decode .attrType16 [0b00000000#8, 0b00010100#8] = .ok (.realm, []) := rfl
theorem test_decode_nonce : decode .attrType16 [0b00000000#8, 0b00010101#8] = .ok (.nonce, []) := rfl
theorem test_decode_xor_mapped_address :
    decode .attrType16 [0b00000000#8, 0b00100000#8] = .ok (.xorMappedAddress, []) := rfl
theorem test_decode_unknown :
    decode .attrType16 [0b10000000#8, 0b00100010#8] = .ok (.unknown 0x8022#16, []) := rfl
theorem test_decode_short : decode .attrType16 [0b00000000#8] = .error .shortWord := rfl

/-! ### The opcode table's words, and a word placed for the next step (log entries 7 and 10) -/

theorem test_table_rmpad : decodeTableWord 8 0x06 = some .rmpad := rfl
theorem test_table_binding_error : decodeTableWord 16 0x0111 = some .bindingError := rfl
theorem test_table_nonce : decodeTableWord 16 0x0015 = some .nonce := rfl
theorem test_table_msgtype : decodeTableWord 16 0x2B7C = some (.msgtype 0b11#2 0xABC#12) := rfl
theorem test_table_unknown : decodeTableWord 16 0xFFFF = some (.unknown 0xFFFF#16) := rfl

theorem test_placed_rmpad : (nextOf (step (State.reset.withFetchWord 8 0x06))).map (·.status) = some 0x00#8 := by decide
theorem test_placed_success :
    (nextOf (step (State.reset.withFetchWord 16 0x0101))).map (fun s => (s.hClass, s.hMethod, s.status)) =
      some (0b10#2, 0x001#12, 0x00#8) := by decide
theorem test_placed_realm :
    (nextOf (step (State.reset.withFetchWord 16 0x0014))).map (fun s => (s.aType, s.status)) =
      some (5#4, 0x00#8) := by decide
theorem test_placed_unknown :
    (nextOf (step (State.reset.withFetchWord 16 0xFFFF))).map (·.status) = some 0x22#8 := by decide

/-! ### Conversion utilities and the message-type field -/

-- V3, V5, V16, V18, V20
theorem test_bytesToBits_v3 :
    bytesToBits [0x01#8, 0x01#8] =
      [false, false, false, false, false, false, false, true, false, false, false, false, false, false, false, true] :=
  by decide
theorem test_bytesToNumber_v5 : bytesToNumber ck = 554869826 := by decide
theorem test_numberToBytes_v16 : numberToBytes 256 1 = .error .width := rfl
theorem test_numberToBytes_v12 : numberToBytes 12 2 = .ok [0x00#8, 0x0C#8] := rfl
theorem test_txidHex_v20 : txidHex 0x000102030405060708090A0B#96 = "000102030405060708090a0b".toList := by decide

-- T8, T10, T14
theorem test_packType_t8 : packType .rfc 0b00#2 0x010#12 = .ok [0x00#8, 0x20#8] := rfl
theorem test_packType_t10 : packType .rfc 0b00#2 0x080#12 = .ok [0x02#8, 0x00#8] := rfl
-- T22
theorem test_unpackType_t22 :
    unpackType .rfc 0x04#8 0x01#8 = { reserved := 0#2, cls := 0b00#2, method := 0x101#12 } := by decide
-- A2, A4
theorem test_packType_a2 : packType .literal 0b01#2 0x001#12 = .ok [0x00#8, 0x41#8] := rfl
theorem test_packType_a4 : packType .literal 0b11#2 0x001#12 = .ok [0x04#8, 0x41#8] := rfl

/-! ### The commands -/

-- H2: Binding Success, length 12
theorem test_parsehdr_h2 :
    (nextOf (exec .parsehdr (withIn (hdr 0x01#8 0x01#8 0x00#8 0x0C#8)))).map
        (fun s => (s.status, s.hClass, s.hMethod, s.hLength, s.hTxid0, s.hTxid1, s.hTxid2)) =
      some (0x00#8, 0b10#2, 0x001#12, 0x000C#16, 0x00010203#32, 0x04050607#32, 0x08090A0B#32) := by decide
-- H19: reserved bits and method wrong
theorem test_parsehdr_h19 :
    exec .parsehdr (withIn (hdr 0xC0#8 0x02#8 0x00#8 0x00#8)) =
      .next { withIn (hdr 0xC0#8 0x02#8 0x00#8 0x00#8) with status := 0x11#8 } := rfl
-- E2
theorem test_genhdr_e2 :
    (nextOf (exec .genhdr (withHeader 0b10#2 0x001#12 12#16))).map (fun s => (s.status, s.mem.bufOut, s.outLen)) =
      some (0x00#8, hdr 0x01#8 0x01#8 0x00#8 0x0C#8, 20#17) := by decide
-- E7
theorem test_genhdr_e7 :
    exec .genhdr (withHeader 0b00#2 0x002#12 0#16) =
      .next { withHeader 0b00#2 0x002#12 0#16 with status := 0x21#8 } := rfl
-- P4: a second attribute follows
theorem test_parseattr_p4 :
    (nextOf (exec .parseattr (withIn [0x00#8, 0x06#8, 0x00#8, 0x03#8, 0x61#8, 0x62#8, 0x63#8, 0x00#8, 0x00#8, 0x15#8,
        0x00#8, 0x00#8]))).map (fun s => (s.status, s.aType, s.aLength, s.mem.bufVal)) =
      some (0x00#8, 1#4, 3#16, [0x61#8, 0x62#8, 0x63#8]) := by decide
-- P12: unknown and truncated
theorem test_parseattr_p12 :
    exec .parseattr (withIn [0xFF#8, 0xFF#8, 0x00#8, 0x04#8, 0xAA#8, 0xBB#8]) =
      .next { withIn [0xFF#8, 0xFF#8, 0x00#8, 0x04#8, 0xAA#8, 0xBB#8] with status := 0x13#8 } := rfl
-- G5: a value that ends in zero
theorem test_genattr_g5 :
    (nextOf (exec .genattr (withVal 2#4 2#16 [0x01#8, 0x00#8]))).map (fun s => (s.status, s.mem.bufOut, s.outLen)) =
      some (0x00#8, [0x00#8, 0x08#8, 0x00#8, 0x02#8, 0x01#8, 0x00#8, 0x00#8, 0x00#8], 8#17) := by decide
-- G10: both wrong
theorem test_genattr_g10 :
    exec .genattr (withVal 9#4 4#16 [0x61#8, 0x62#8, 0x63#8]) =
      .next { withVal 9#4 4#16 [0x61#8, 0x62#8, 0x63#8] with status := 0x14#8 } := rfl
-- X1
theorem test_genxma_x1 :
    (nextOf (exec .genxma (withAddress 0#1 0x8055#16 quad))).map (fun s => (s.status, s.mem.bufVal, s.valLen)) =
      some (0x00#8, xma, 8#16) := by decide
-- X9: the family is tested before the string
theorem test_genxma_x9 :
    exec .genxma (withAddress 1#1 0#16 []) = .next { withAddress 1#1 0#16 [] with status := 0x24#8 } := rfl
-- X7 "010.001.000.009" and X12 "192.0.2.256", X13 "192.0.2.1 "
theorem test_quad_x7 :
    parseDottedQuad [0x30#8, 0x31#8, 0x30#8, 0x2E#8, 0x30#8, 0x30#8, 0x31#8, 0x2E#8, 0x30#8, 0x30#8, 0x30#8, 0x2E#8,
      0x30#8, 0x30#8, 0x39#8] = some { o0 := 10#8, o1 := 1#8, o2 := 0#8, o3 := 9#8 } := by decide
theorem test_quad_x12 :
    parseDottedQuad [0x31#8, 0x39#8, 0x32#8, 0x2E#8, 0x30#8, 0x2E#8, 0x32#8, 0x2E#8, 0x32#8, 0x35#8, 0x36#8] = none :=
  by decide
theorem test_quad_x13 : parseDottedQuad (quad ++ [0x20#8]) = none := by decide
-- M6, M8
theorem test_rmpad_m6 :
    (nextOf (exec .rmpad (withVal 1#4 5#16 [0x01#8, 0x00#8, 0x00#8, 0x00#8, 0x00#8]))).map
      (fun s => (s.status, s.mem.bufVal, s.aLength)) = some (0x00#8, [0x01#8], 5#16) := by decide
theorem test_rmpad_m8 :
    (nextOf (exec .rmpad (withVal 1#4 0#16 [0x00#8, 0x01#8, 0x00#8]))).map (fun s => s.mem.bufVal) =
      some [0x00#8, 0x01#8] := by decide
-- I2
theorem test_illegal_i2 : exec (.illegal 0x07#8) State.reset = .next { State.reset with status := 0x41#8 } := rfl

/-! ### The message-type and attribute-type rows: the result of PARSEHDR or PARSEATTR on the same window -/

-- H1, H3, H2, H4, H15
theorem test_binding_request :
    exec .bindingRequest (withIn (hdr 0xFF#8 0xFF#8 0x00#8 0x08#8)) =
      .next { withIn (hdr 0xFF#8 0xFF#8 0x00#8 0x08#8) with
        hMethod := 0x001#12, hLength := 8#16
        hTxid0 := 0x00010203#32, hTxid1 := 0x04050607#32, hTxid2 := 0x08090A0B#32 } := rfl
theorem test_binding_indication :
    (nextOf (exec .bindingIndication (withIn (hdr 0x00#8 0x11#8 0x00#8 0x08#8)))).map (fun s => (s.status, s.hClass)) =
      some (0x00#8, 0b01#2) := by decide
theorem test_binding_success :
    (nextOf (exec .bindingSuccess (withIn (hdr 0x01#8 0x01#8 0x00#8 0x08#8)))).map (fun s => (s.status, s.hClass)) =
      some (0x00#8, 0b10#2) := by decide
theorem test_binding_error :
    (nextOf (exec .bindingError (withIn (hdr 0x01#8 0x11#8 0x00#8 0x08#8)))).map (fun s => (s.status, s.hClass)) =
      some (0x00#8, 0b11#2) := by decide
theorem test_msgtype_h15 :
    exec (.msgtype 0b11#2 0xFFF#12) (withIn (hdr 0x3F#8 0xFF#8 0x00#8 0x00#8)) =
      .next { withIn (hdr 0x3F#8 0xFF#8 0x00#8 0x00#8) with status := 0x21#8 } := rfl

/-- An attribute window of one value byte. -/
def attrIn (code : Byte) : State := withIn [0x00#8, code, 0x00#8, 0x01#8, 0x55#8]

/-- The attribute registers and VAL after an instruction. -/
def attrOf (i : Instr) (s : State) : Option (Byte × NameId × Word16 × List Byte) :=
  (nextOf (exec i s)).map (fun t => (t.status, t.aType, t.aLength, t.mem.bufVal))

theorem test_mapped_address : attrOf .mappedAddress (attrIn 0x01#8) = some (0x00#8, 0#4, 1#16, [0x55#8]) := by decide
theorem test_username : attrOf .username (attrIn 0x06#8) = some (0x00#8, 1#4, 1#16, [0x55#8]) := by decide
theorem test_message_integrity :
    attrOf .messageIntegrity (attrIn 0x08#8) = some (0x00#8, 2#4, 1#16, [0x55#8]) := by decide
theorem test_error_code : attrOf .errorCode (attrIn 0x09#8) = some (0x00#8, 3#4, 1#16, [0x55#8]) := by decide
theorem test_unknown_attributes :
    attrOf .unknownAttributes (attrIn 0x0A#8) = some (0x00#8, 4#4, 1#16, [0x55#8]) := by decide
theorem test_realm : attrOf .realm (attrIn 0x14#8) = some (0x00#8, 5#4, 1#16, [0x55#8]) := by decide
theorem test_nonce : attrOf .nonce (attrIn 0x15#8) = some (0x00#8, 6#4, 1#16, [0x55#8]) := by decide
theorem test_xor_mapped_address :
    attrOf .xorMappedAddress (attrIn 0x20#8) = some (0x00#8, 7#4, 1#16, [0x55#8]) := by decide
theorem test_unknown_code : exec (.unknown 0xFFFF#16) (attrIn 0x20#8) = .next { attrIn 0x20#8 with status := 0x22#8 } :=
  rfl

/-! ### The host's side: the script notation, the compositions -/

theorem test_line_set_name :
    assembleLine "SET A_TYPE, XOR-MAPPED-ADDRESS".toList = some [.set .aType 7] := by decide
theorem test_line_set_number : assembleLine "SET 11, 0x8055 ; the port".toList = some [.set .xPort 0x8055] := by decide
theorem test_line_load : assembleLine "LDIN 00 06 0a".toList = some [.load .bufIn [0x00#8, 0x06#8, 0x0A#8]] := by decide
theorem test_line_address : assembleLine "LDADDR \"192.0.2.1\"".toList = some [.load .bufXaddr quad] := by decide
theorem test_line_address_other_text : assembleLine "LDADDR foo \"1.2.3.4\"".toList = none := by decide
theorem test_line_address_open_quote : assembleLine "LDADDR \" ".toList = none := by decide
theorem test_line_command : assembleLine "GENXMA".toList = some [.cmd 0x05#8] := by decide
theorem test_line_xmaattr :
    assembleLine "XMAATTR".toList = some [.cmd 0x05#8, .chk, .set .aType 7, .set .aLength 8, .cmd 0x04#8] := by decide
theorem test_line_no_line : assembleLine "PARSE IN".toList = none := by decide

/-- Program 1: the response to the Binding Request of H1. -/
theorem test_binding_response :
    bindingResponse unitConfig (hdr 0x00#8 0x01#8 0x00#8 0x00#8)
        { family := .ipv4, address := quad, port := 32853#16 } =
      .ok (hdr 0x01#8 0x01#8 0x00#8 0x0C#8 ++ [0x00#8, 0x20#8, 0x00#8, 0x08#8] ++ xma) := by
  decide

/-- Program 3: two attributes and an unknown one. -/
theorem test_walk :
    walkAttributes unitConfig ([0x00#8, 0x06#8, 0x00#8, 0x03#8, 0x61#8, 0x62#8, 0x63#8, 0x00#8, 0x00#8, 0x20#8, 0x00#8,
        0x08#8] ++ xma ++ [0x80#8, 0x22#8, 0x00#8, 0x00#8]) =
      { attributes :=
          [{ name := 1#4, length := 3#16, value := [0x61#8, 0x62#8, 0x63#8] },
            { name := 7#4, length := 8#16, value := xma }]
        error := some .unknownType } := by decide

/-! ### No statement is empty: for each statement with hypotheses, values that meet them together, one witness for each
clause and at its boundaries -/

/-- Twelve equal transaction-id bytes. -/
def ids : Fin 12 → Byte := fun _ => 0xFF#8

/-- A state whose IN is a header window. -/
def headerIn (b0 b1 l0 l1 : Byte) : State := withIn (headerWindow b0 b1 l0 l1 ids [])

theorem witness_parsehdr_takes_low :
    (headerIn 0x00#8 0x01#8 0x00#8 0x00#8).mem.bufIn = headerWindow 0x00#8 0x01#8 0x00#8 0x00#8 ids [] ∧
      word16 0x00#8 0x01#8 &&& 0xFEEF#16 = 0x0001#16 := ⟨rfl, by decide⟩
theorem witness_parsehdr_takes_high :
    (headerIn 0x01#8 0x11#8 0xFF#8 0xFF#8).mem.bufIn = headerWindow 0x01#8 0x11#8 0xFF#8 0xFF#8 ids [] ∧
      word16 0x01#8 0x11#8 &&& 0xFEEF#16 = 0x0001#16 := ⟨rfl, by decide⟩
theorem witness_parsehdr_short : (withIn ((hdr 0x00#8 0x01#8 0x00#8 0x00#8).take 19)).mem.bufIn.length = 19 := by decide
theorem witness_parsehdr_cookie :
    let w := [0x00#8, 0x01#8, 0x00#8, 0x00#8, 0x21#8, 0x12#8, 0xA4#8, 0x43#8] ++ tx
    (withIn w).mem.bufIn.length = 20 ∧ ((withIn w).mem.bufIn.drop 4).take 4 ≠ [0x21#8, 0x12#8, 0xA4#8, 0x42#8] := by
  decide
theorem witness_parsehdr_reserved :
    (headerIn 0x40#8 0x01#8 0x00#8 0x00#8).mem.bufIn = headerWindow 0x40#8 0x01#8 0x00#8 0x00#8 ids [] ∧
      (0x40#8 : Byte).extractLsb' 6 2 ≠ 0#2 := ⟨rfl, by decide⟩
theorem witness_parsehdr_method :
    (headerIn 0x3F#8 0xFF#8 0x00#8 0x00#8).mem.bufIn = headerWindow 0x3F#8 0xFF#8 0x00#8 0x00#8 ids [] ∧
      (0x3F#8 : Byte).extractLsb' 6 2 = 0#2 ∧ word16 0x3F#8 0xFF#8 &&& 0xFEEF#16 ≠ 0x0001#16 :=
  ⟨rfl, by decide, by decide⟩

theorem witness_genhdr : (withHeader 0b11#2 0x001#12 0xFFFF#16).hMethod = 0x001#12 ∧
    (withHeader 0b11#2 0x000#12 0#16).hMethod ≠ 0x001#12 ∧ (withHeader 0b11#2 0x002#12 0#16).hMethod ≠ 0x001#12 := by
  decide

theorem witness_parseattr_takes_empty :
    (withIn [0x00#8, 0x20#8, 0x00#8, 0x00#8]).mem.bufIn = attributeWindow 0x00#8 0x20#8 0x00#8 0x00#8 ([] ++ []) ∧
      ([] : List Byte).length = (word16 0x00#8 0x00#8).toNat ∧
      { code := word16 0x00#8 0x20#8, name := 7#4 } ∈ unitConfig.registry := by decide
theorem witness_parseattr_takes :
    (withIn [0x00#8, 0x01#8, 0x00#8, 0x01#8, 0xAA#8, 0xBB#8]).mem.bufIn =
        attributeWindow 0x00#8 0x01#8 0x00#8 0x01#8 ([0xAA#8] ++ [0xBB#8]) ∧
      [0xAA#8].length = (word16 0x00#8 0x01#8).toNat ∧
      { code := word16 0x00#8 0x01#8, name := 0#4 } ∈ unitConfig.registry := by decide
theorem witness_parseattr_short : (withIn [0x00#8, 0x06#8, 0x00#8]).mem.bufIn.length < 4 := by decide
theorem witness_parseattr_truncated :
    (withIn [0x00#8, 0x06#8, 0x00#8, 0x01#8]).mem.bufIn = attributeWindow 0x00#8 0x06#8 0x00#8 0x01#8 [] ∧
      ([] : List Byte).length < (word16 0x00#8 0x01#8).toNat := by decide
theorem witness_parseattr_unknown :
    (withIn [0xFF#8, 0xFF#8, 0x00#8, 0x00#8]).mem.bufIn = attributeWindow 0xFF#8 0xFF#8 0x00#8 0x00#8 [] ∧
      (word16 0x00#8 0x00#8).toNat ≤ ([] : List Byte).length ∧
      ∀ name, { code := word16 0xFF#8 0xFF#8, name := name } ∉ unitConfig.registry := by decide

theorem witness_genattr_builds :
    (withVal 0#4 0#16 []).mem.bufVal.length = (withVal 0#4 0#16 []).aLength.toNat ∧
      { code := 0x0001#16, name := (withVal 0#4 0#16 []).aType } ∈ unitConfig.registry := by decide
theorem witness_genattr_builds_last :
    (withVal 7#4 8#16 xma).mem.bufVal.length = (withVal 7#4 8#16 xma).aLength.toNat ∧
      { code := 0x0020#16, name := (withVal 7#4 8#16 xma).aType } ∈ unitConfig.registry := by decide
theorem witness_genattr_mismatch :
    (withVal 1#4 1#16 []).mem.bufVal.length ≠ (withVal 1#4 1#16 []).aLength.toNat := by decide
theorem witness_genattr_name :
    (withVal 8#4 0#16 []).mem.bufVal.length = (withVal 8#4 0#16 []).aLength.toNat ∧
      8 ≤ (withVal 8#4 0#16 []).aType.toNat ∧ 8 ≤ (withVal 15#4 0#16 []).aType.toNat := by decide

theorem field_zero : OctetField [0x30#8] 0 := ⟨[0], by decide, by decide, by decide, by decide, by decide, by decide⟩
theorem field_255 : OctetField [0x32#8, 0x35#8, 0x35#8] 255 :=
  ⟨[2, 5, 5], by decide, by decide, by decide, by decide, by decide, by decide⟩
theorem witness_quad_low : DottedQuad (withAddress 0#1 0#16 quadLow).mem.bufXaddr 0 0 0 0 :=
  ⟨_, _, _, _, field_zero, field_zero, field_zero, field_zero, rfl⟩
theorem witness_quad_high : DottedQuad (withAddress 0#1 0xFFFF#16 quadHigh).mem.bufXaddr 255 255 255 255 :=
  ⟨_, _, _, _, field_255, field_255, field_255, field_255, rfl⟩
theorem witness_genxma_builds :
    (withAddress 0#1 0xFFFF#16 quadHigh).xFamily = 0#1 ∧
      DottedQuad (withAddress 0#1 0xFFFF#16 quadHigh).mem.bufXaddr 255 255 255 255 := ⟨rfl, witness_quad_high⟩
theorem witness_genxma_ipv6 : (withAddress 1#1 0#16 quad).xFamily = 1#1 := rfl
theorem witness_genxma_format :
    (withAddress 0#1 0#16 [0x30#8, 0x2E#8, 0x30#8, 0x2E#8, 0x30#8, 0x2E#8, 0x32#8, 0x35#8, 0x36#8]).xFamily = 0#1 ∧
      ∀ o0 o1 o2 o3, ¬ DottedQuad (withAddress 0#1 0#16
        [0x30#8, 0x2E#8, 0x30#8, 0x2E#8, 0x30#8, 0x2E#8, 0x32#8, 0x35#8, 0x36#8]).mem.bufXaddr o0 o1 o2 o3 :=
  ⟨rfl, not_dottedQuad (by decide)⟩
theorem witness_genxma_empty :
    (withAddress 0#1 0#16 []).xFamily = 0#1 ∧
      ∀ o0 o1 o2 o3, ¬ DottedQuad (withAddress 0#1 0#16 []).mem.bufXaddr o0 o1 o2 o3 :=
  ⟨rfl, not_dottedQuad (by decide)⟩

theorem witness_rmpad :
    (withVal 1#4 0#16 [0x01#8, 0x00#8]).mem.bufVal = [0x01#8] ++ List.replicate 1 0x00#8 ∧
      [0x01#8].getLast? ≠ some 0x00#8 ∧ [0x01#8].length ≤ 65535 := by decide
theorem witness_rmpad_zeros :
    (withVal 1#4 0#16 [0x00#8, 0x00#8]).mem.bufVal = [] ++ List.replicate 2 0x00#8 ∧
      ([] : List Byte).getLast? ≠ some 0x00#8 ∧ ([] : List Byte).length ≤ 65535 := by decide

theorem witness_illegal :
    ((0x00#8 : Byte) = 0x00#8 ∨ 7 ≤ (0x00#8 : Byte).toNat) ∧ (withScript [.cmd 0x00#8, .chk]).script = [.cmd 0x00#8, .chk] ∧
      ((0x07#8 : Byte) = 0x00#8 ∨ 7 ≤ (0x07#8 : Byte).toNat) ∧ (withScript [.cmd 0x07#8]).script = [.cmd 0x07#8] := by decide

theorem witness_rows_header : (headerIn 0xFF#8 0xFF#8 0x00#8 0x00#8).mem.bufIn =
    headerWindow 0xFF#8 0xFF#8 0x00#8 0x00#8 ids [] ∧ (0x000#12 : MethodCode) ≠ 0x001#12 ∧
      (0x002#12 : MethodCode) ≠ 0x001#12 := ⟨rfl, by decide, by decide⟩
theorem witness_rows_name :
    (withIn [0x00#8, 0x01#8, 0x00#8, 0x01#8, 0xAA#8, 0xBB#8]).mem.bufIn =
        attributeWindow 0x00#8 0x01#8 0x00#8 0x01#8 ([0xAA#8] ++ [0xBB#8]) ∧
      [0xAA#8].length = (word16 0x00#8 0x01#8).toNat := by decide
theorem witness_rows_unknown :
    WellFormed (.unknown 0x0000#16) ∧ (withIn [0x00#8, 0x06#8, 0x00#8, 0x00#8]).mem.bufIn =
        attributeWindow 0x00#8 0x06#8 0x00#8 0x00#8 [] ∧
      (word16 0x00#8 0x00#8).toNat ≤ ([] : List Byte).length := by decide
theorem witness_rows_act_as_parsehdr :
    (Instr.msgtype 0b11#2 0xFFF#12).format = .msgType16 ∧
      (withIn (hdr 0x3F#8 0xFF#8 0x00#8 0x00#8)).mem.bufIn =
        encode (.msgtype 0b11#2 0xFFF#12) ++ ([0x00#8, 0x00#8] ++ ck ++ tx) ∧
      ∃ t, exec .parsehdr { withIn [] with
        mem := { (withIn []).mem with bufIn := encode (.msgtype 0b11#2 0xFFF#12) ++ (withIn []).mem.bufIn.drop 2 } } =
          .next t := ⟨rfl, by decide, _, rfl⟩
theorem witness_rows_act_as_parseattr :
    Instr.nonce.format = .attrType16 ∧
      (withIn [0x00#8, 0x15#8, 0x00#8, 0x00#8]).mem.bufIn = encode .nonce ++ [0x00#8, 0x00#8] ∧
      ∃ t, exec .parseattr { withIn [] with
        mem := { (withIn []).mem with bufIn := encode .nonce ++ (withIn []).mem.bufIn.drop 2 } } = .next t :=
  ⟨rfl, by decide, _, rfl⟩

theorem witness_frame_parsehdr :
    ∃ t, exec .parsehdr (headerIn 0x01#8 0x11#8 0xFF#8 0xFF#8) = .next t ∧ t.status = 0x00#8 := ⟨_, rfl, rfl⟩
theorem witness_frame_parseattr : ∃ t, exec .parseattr (attrIn 0x20#8) = .next t ∧ t.status = 0x00#8 := ⟨_, rfl, rfl⟩
theorem witness_frame_genhdr :
    ∃ t, exec .genhdr (withHeader 0b10#2 0x001#12 12#16) = .next t ∧ t.status = 0x00#8 := ⟨_, rfl, rfl⟩
theorem witness_frame_genattr : ∃ t, exec .genattr (withVal 7#4 8#16 xma) = .next t ∧ t.status = 0x00#8 := ⟨_, rfl, rfl⟩
theorem witness_frame_genxma :
    ∃ t, exec .genxma (withAddress 0#1 0x8055#16 quad) = .next t ∧ t.status = 0x00#8 := ⟨_, rfl, rfl⟩
theorem witness_frame_rmpad :
    ∃ t, exec .rmpad (withVal 1#4 0#16 [0x01#8, 0x00#8]) = .next t ∧ t.status = 0x00#8 := ⟨_, rfl, rfl⟩
theorem witness_frame_msgtype : ∃ t, exec .bindingError (headerIn 0#8 0#8 0#8 0#8) = .next t ∧ t.status = 0x00#8 :=
  ⟨_, rfl, rfl⟩
theorem witness_frame_name : ∃ t, exec .username (attrIn 0x20#8) = .next t ∧ t.status = 0x00#8 := ⟨_, rfl, rfl⟩
theorem witness_failing :
    ∃ t, exec .genhdr State.reset = .next t ∧ t.status ≠ 0x00#8 := ⟨_, rfl, by decide⟩
theorem witness_completes : State.reset.mem.wf := by decide

theorem witness_beyond_header :
    (hdr 0x00#8 0x01#8 0x00#8 0x00#8).length = 20 ∧
      exec .parsehdr { withIn [] with
        mem := { (withIn []).mem with bufIn := hdr 0x00#8 0x01#8 0x00#8 0x00#8 ++ [0xAA#8] } } =
          .next { withIn (hdr 0x00#8 0x01#8 0x00#8 0x00#8 ++ [0xAA#8]) with
            hMethod := 0x001#12, hTxid0 := 0x00010203#32, hTxid1 := 0x04050607#32, hTxid2 := 0x08090A0B#32 } := by
  constructor
  · decide
  · exact nextOf_eq (by decide)
theorem witness_beyond_attribute :
    [0xAA#8].length = (word16 0x00#8 0x01#8).toNat ∧
      exec .parseattr { withIn [] with
        mem := { (withIn []).mem with bufIn := attributeWindow 0x00#8 0x06#8 0x00#8 0x01#8 ([0xAA#8] ++ [0xBB#8]) } } =
          .next { withVal 1#4 1#16 [0xAA#8] with mem := {
            bufIn := [0x00#8, 0x06#8, 0x00#8, 0x01#8, 0xAA#8, 0xBB#8], bufVal := [0xAA#8], bufOut := []
            bufXaddr := [] } } := by
  constructor
  · decide
  · exact nextOf_eq (by decide)

/-- The same operands in a state that differs in everything a command does not read. -/
theorem witness_read_set_parsehdr :
    (headerIn 0x00#8 0x01#8 0x00#8 0x00#8).mem.bufIn =
        ({ headerIn 0x00#8 0x01#8 0x00#8 0x00#8 with status := 0x41#8, hLength := 9#16 } : State).mem.bufIn ∧
      (∃ t, exec .parsehdr (headerIn 0x00#8 0x01#8 0x00#8 0x00#8) = .next t) ∧
      ∃ t, exec .parsehdr { headerIn 0x00#8 0x01#8 0x00#8 0x00#8 with status := 0x41#8, hLength := 9#16 } = .next t :=
  ⟨rfl, ⟨_, rfl⟩, _, rfl⟩
theorem witness_read_set_genhdr :
    (∃ t, exec .genhdr (withHeader 0b10#2 0x001#12 12#16) = .next t) ∧
      ∃ t, exec .genhdr { withHeader 0b10#2 0x001#12 12#16 with aType := 9#4, xPort := 1#16 } = .next t :=
  ⟨⟨_, rfl⟩, _, rfl⟩
theorem witness_read_set_parseattr :
    (∃ t, exec .parseattr (attrIn 0x06#8) = .next t) ∧
      ∃ t, exec .parseattr { attrIn 0x06#8 with aType := 9#4, aLength := 77#16 } = .next t := ⟨⟨_, rfl⟩, _, rfl⟩
theorem witness_read_set_genattr :
    (∃ t, exec .genattr (withVal 7#4 8#16 xma) = .next t) ∧
      ∃ t, exec .genattr { withVal 7#4 8#16 xma with hMethod := 2#12, status := 0x31#8 } = .next t :=
  ⟨⟨_, rfl⟩, _, rfl⟩
theorem witness_read_set_genxma :
    (∃ t, exec .genxma (withAddress 0#1 1#16 quad) = .next t) ∧
      ∃ t, exec .genxma { withAddress 0#1 1#16 quad with aLength := 3#16 } = .next t := ⟨⟨_, rfl⟩, _, rfl⟩
theorem witness_read_set_rmpad :
    (∃ t, exec .rmpad (withVal 1#4 0#16 [0x01#8, 0x00#8]) = .next t) ∧
      ∃ t, exec .rmpad (withVal 2#4 5#16 [0x01#8, 0x00#8]) = .next t := ⟨⟨_, rfl⟩, _, rfl⟩

theorem witness_invariant :
    UnitInv (withScript [.load .bufVal [0x01#8]]) ∧ ∃ t, step (withScript [.load .bufVal [0x01#8]]) = .next t :=
  ⟨⟨by decide, by decide⟩, _, rfl⟩

theorem witness_decode_encode :
    registryAdmissible unitConfig.registry = true ∧
      (Instr.msgtype 0b11#2 0xFFF#12).wfIn { unitConfig with typeLayout := .literal } = true ∧
      (Instr.unknown 0xFFFF#16).wfIn unitConfig = true ∧ (Instr.illegal 0xFF#8).wfIn unitConfig = true := by decide
theorem witness_encode_decode :
    registryAdmissible unitConfig.registry = true ∧
      decodeWith unitConfig .msgType16 [0x3F#8, 0xFF#8, 0xAA#8] = .ok (.msgtype 0b11#2 0xFFF#12, [0xAA#8]) :=
  ⟨by decide, rfl⟩
theorem witness_decoder_refuses :
    Format.msgType16 = Format.msgType16 ∧ [0x40#8, 0x00#8] = 0x40#8 :: 0x00#8 :: ([] : List Byte) ∧
      (0x40#8 : Byte).extractLsb' 6 2 ≠ 0#2 ∧
      decodeWith unitConfig .msgType16 [0x40#8, 0x00#8] = .error .reservedBits := by decide
theorem witness_pack_unpack :
    unpackType .literal 0x3F#8 0xFF#8 = { reserved := 0#2, cls := 0b11#2, method := 0xFFF#12 } ∧
      packType .literal 0b11#2 0xFFF#12 = packType .literal 0b11#2 0xFFF#12 ∧ (0x3F#8 : Byte).extractLsb' 6 2 = 0#2 :=
  ⟨by decide, rfl, by decide⟩
theorem witness_number_to_bytes : numberToBytes 65535 2 = .ok [0xFF#8, 0xFF#8] ∧ 256 ^ 2 ≤ 65536 := by decide
theorem witness_conversion : 65535 < 256 ^ 2 ∧ bytesToBits [0xA5#8] = bytesToBits [0xA5#8] := by decide
theorem witness_registry :
    registryAdmissible defaultRegistry = true ∧ (0#4 : NameId).toNat ≤ 7 ∧ (7#4 : NameId).toNat ≤ 7 ∧
      nameForCode defaultRegistry 0x0020#16 = some 7#4 ∧ 8 ≤ (8#4 : NameId).toNat ∧ 8 ≤ (15#4 : NameId).toNat := by decide
theorem witness_header_round_trip :
    ({ cls := 0b11#2, method := 0x001#12, length := 0xFFFF#16, transactionId := 0#96 } : Header).method = 0x001#12 ∧
      (hdr 0x00#8 0x01#8 0x00#8 0x00#8).length = 20 ∧
      parseHeader { unitConfig with typeLayout := .literal } (hdr 0x00#8 0x01#8 0x00#8 0x00#8) =
        .ok { cls := 0b00#2, method := 0x001#12, length := 0#16, transactionId := 0x000102030405060708090A0B#96 } := by
  refine ⟨rfl, by decide, ?_⟩
  decide
theorem witness_attribute_round_trip :
    registryAdmissible unitConfig.registry = true ∧ xma.length = (8#16 : Word16).toNat ∧ (7#4 : NameId).toNat ≤ 7 ∧
      parseAttribute unitConfig [0x00#8, 0x15#8, 0x00#8, 0x00#8] =
        .ok { name := 6#4, length := 0#16, value := [] } := by
  refine ⟨by decide, by decide, by decide, ?_⟩
  decide
theorem witness_xor :
    (withAddress 0#1 0#16 quadLow).xFamily = 0#1 ∧ DottedQuad (withAddress 0#1 0#16 quadLow).mem.bufXaddr 0 0 0 0 ∧
      ∃ t, exec .genxma (withAddress 0#1 0#16 quadLow) = .next t := ⟨rfl, witness_quad_low, _, rfl⟩

theorem witness_step_command :
    (withScript [.cmd 0x06#8]).script = [.cmd 0x06#8] ∧ decode .cmd8 [0x06#8] = .ok (.rmpad, []) := ⟨rfl, rfl⟩
theorem witness_step_command_by_number :
    (withScript [.set .cmd 0xFF, .chk]).script = [.set .cmd (0xFF#8 : Byte).toNat, .chk] ∧
      decode .cmd8 [0xFF#8] = .ok (.illegal 0xFF#8, []) := ⟨rfl, rfl⟩
theorem witness_step_placed :
    decodeTableWord 8 0x00 = some (.illegal 0x00#8) ∧ decodeTableWord 16 0x0001 = some .bindingRequest ∧
      decodeTableWord 16 0x0020 = some .xorMappedAddress := ⟨rfl, rfl, rfl⟩
theorem witness_step_waits : State.reset.script = [] := rfl
theorem witness_host_write :
    (withScript [.set .hClass 3]).script = [.set .hClass 3] ∧ 2 ≤ regNumber .hClass ∧ regNumber .hClass ≤ 11 ∧
      3 < 2 ^ regWidth .hClass ∧ 2 ≤ regNumber .xPort ∧ regNumber .xPort ≤ 11 ∧ 65535 < 2 ^ regWidth .xPort := by decide
theorem witness_host_load :
    (withScript [.load .bufXaddr quadHigh]).script = [.load .bufXaddr quadHigh] ∧ Buf.bufXaddr ≠ .bufOut ∧
      quadHigh.length ≤ capacity unitConfig .bufXaddr := by decide
theorem witness_host_reads :
    (withScript [.rd .status]).script = [.rd .status] ∧ readReg (withScript [.rd .status]) .status = some 0 ∧
      (withScript [.rdbuf .bufOut]).script = [.rdbuf .bufOut] ∧
      ({ withIn [0xAA#8] with script := [.readByte .bufIn 0] } : State).script = [.readByte .bufIn 0] ∧
      (({ withIn [0xAA#8] with script := [.readByte .bufIn 0] } : State).mem.get .bufIn)[0]? = some 0xAA#8 := by decide
theorem witness_lengths :
    (withAddress 0#1 0#16 quadHigh).mem.wf ∧ readReg (withAddress 0#1 0#16 quadHigh) .xaddrLen = some 15 ∧
      (withScript [.set .outLen 0]).script = [.set (lengthRegister .bufOut) 0] ∧
      (withAddress 0#1 0#16 quad).mem.get .bufIn = (withAddress 1#1 5#16 []).mem.get .bufIn := by decide
theorem witness_host_refused :
    (withScript [.set .xaddrLen 0]).script = [.set .xaddrLen 0] ∧ 12 ≤ regNumber .inLen ∧ 12 ≤ regNumber .xaddrLen ∧
      (withScript [.set .hClass 4]).script = [.set .hClass 4] ∧ Reg.hClass ≠ .status ∧ regNumber .hClass < 12 ∧
      2 ^ regWidth .hClass ≤ 4 ∧ (withScript [.set .cmd 256]).script = [.set .cmd 256] ∧ Reg.cmd ≠ .status ∧
      regNumber .cmd < 12 ∧ 2 ^ regWidth .cmd ≤ 256 ∧ (withScript [.rd .cmd]).script = [.rd .cmd] ∧
      (withScript [.load .bufOut []]).script = [.load .bufOut []] := by decide
theorem witness_host_refused_load :
    (withScript [.load .bufXaddr (0x30#8 :: quadHigh)]).script = [.load .bufXaddr (0x30#8 :: quadHigh)] ∧
      Buf.bufXaddr ≠ .bufOut ∧ capacity unitConfig .bufXaddr < (0x30#8 :: quadHigh).length ∧
      (withScript [.readByte .bufIn 0]).script = [.readByte .bufIn 0] ∧
      ((withScript [.readByte .bufIn 0]).mem.get .bufIn).length ≤ 0 := by decide
theorem witness_check :
    (withScript [.chk, .drop]).script = [.chk, .drop] ∧ (withScript [.chk, .drop]).status = 0x00#8 ∧
      ({ withScript [.chk, .drop] with status := 0x41#8 } : State).status ≠ 0x00#8 := by decide
theorem witness_platform_reset : (withScript [.reset, .rd .status]).script = [.reset, .rd .status] := rfl
theorem witness_unit_round_trips :
    (withHeader 0b11#2 0x001#12 0xFFFF#16).hMethod = 0x001#12 ∧ (withVal 7#4 8#16 xma).aType.toNat ≤ 7 ∧
      (withVal 7#4 8#16 xma).mem.bufVal.length = (withVal 7#4 8#16 xma).aLength.toNat := by decide

theorem witness_unit_round_trips_back :
    (headerIn 0x01#8 0x11#8 0xFF#8 0xFF#8).mem.bufIn.length = 20 ∧
      (∃ t, exec .parsehdr (headerIn 0x01#8 0x11#8 0xFF#8 0xFF#8) = .next t ∧ t.status = 0x00#8) ∧
      ∃ t, exec .parseattr (attrIn 0x01#8) = .next t ∧ t.status = 0x00#8 :=
  ⟨rfl, ⟨_, rfl, rfl⟩, _, rfl, rfl⟩

/-- The address of Program 1. -/
def program1Address : TransportAddress := { family := .ipv4, address := quad, port := 32853#16 }

theorem witness_binding_script :
    let script := bindingScript (hdr 0x00#8 0x01#8 0x00#8 0x00#8) program1Address
    ({ withScript script with observed := [.buffer .bufOut 0 []] } : State).script = script ∧
      (hdr 0x00#8 0x01#8 0x00#8 0x00#8).length ≤ 65540 ∧ program1Address.address.length ≤ 15 := by decide
theorem witness_walk_generated :
    registryAdmissible unitConfig.registry = true ∧
      [({ name := 1#4, length := 1#16, value := [0xAA#8] } : Attribute), { name := 6#4, length := 0#16, value := [] }].map
          (generateAttribute unitConfig) =
        [[0x00#8, 0x06#8, 0x00#8, 0x01#8, 0xAA#8, 0x00#8, 0x00#8, 0x00#8], [0x00#8, 0x15#8, 0x00#8, 0x00#8]].map .ok :=
  ⟨by decide, rfl⟩
theorem witness_walk_unit :
    ([0x80#8, 0x22#8, 0x00#8, 0x00#8] : List Byte).length ≤ 65540 ∧ ([0x80#8, 0x22#8, 0x00#8, 0x00#8] : List Byte) ≠ [] :=
  by decide

end Sys2Proof.Tests
end

section
/-! SUPPORT. Rules of the host's side of a step: what a register write stores and leaves, and, once, everything a
performed action and a step can do (10_state.md R34; 30_encoding.md R81). -/

namespace Sys2Proof.Machine

/-! ### Register writes -/

/-- The host may write exactly the registers 2 to 11 (10_state.md R34). -/
theorem writeReg_eq_none_iff (s : State) (value : Nat) (r : Reg) :
    writeReg s value r = none ↔ ¬ (2 ≤ regNumber r ∧ regNumber r ≤ 11) := by
  cases r <;> simp [writeReg] <;> decide

/-- A register write leaves STATUS, the buffers and the host's side alone. -/
theorem writeReg_frame {s t : State} {value : Nat} {r : Reg} (h : writeReg s value r = some t) :
    t.status = s.status ∧ t.mem = s.mem ∧ t.script = s.script ∧ t.observed = s.observed := by
  cases r <;> cases h <;> exact ⟨rfl, rfl, rfl, rfl⟩

/-- A written register reads the value, where the value has the register's width. -/
theorem readReg_writeReg_same {s t : State} {value : Nat} {r : Reg} (h : writeReg s value r = some t)
    (hfit : value < 2 ^ regWidth r) : readReg t r = some value := by
  cases r <;> cases h <;> exact congrArg some (Nat.mod_eq_of_lt hfit)

/-- A register write leaves what every other register reads. -/
theorem readReg_writeReg_other {s t : State} {value : Nat} {r r' : Reg} (h : writeReg s value r = some t)
    (hne : r' ≠ r) : readReg t r' = readReg s r' := by
  cases r <;> cases h <;> cases r' <;> first | rfl | exact absurd rfl hne

/-- A host write of register 0 executes the command, where the value has 8 bits (log entry 11). -/
theorem hostWrite_cmd (value : Nat) (s : State) :
    hostWrite .cmd value s =
      if value < 2 ^ regWidth .cmd then exec (commandOf (BitVec.ofNat 8 value)) s
      else .refused (.valueTooWide .cmd) := rfl

/-- A host write of a register other than the port CMD is a register write. -/
theorem hostWrite_eq_hostSet {r : Reg} (h : r ≠ .cmd) (value : Nat) (s : State) :
    hostWrite r value s = hostSet r value s := by
  unfold hostWrite
  split
  · contradiction
  · rfl

/-- If a host write answers a next state, a command has been executed or a register has been written. -/
theorem hostWrite_next {r : Reg} {value : Nat} {s t : State} (h : hostWrite r value s = .next t) :
    (∃ i, exec i s = .next t) ∨ writeReg s value r = some t := by
  by_cases hr : r = .cmd
  · subst hr
    rw [hostWrite_cmd] at h
    split at h
    · exact .inl ⟨_, h⟩
    · cases h
  · rw [hostWrite_eq_hostSet hr] at h
    exact .inr (hostSet_next h).1

/-! ### Performed actions and steps -/

/-- Everything a performed action can do to STATUS and the buffers when it answers a next state: execute a command,
leave them alone, replace one buffer within its capacity, or reset them. -/
theorem perform_next {a : HostAction} {s t : State} (h : perform a s = .next t) :
    (∃ i, exec i s = .next t) ∨ (t.status = s.status ∧ t.mem = s.mem) ∨
    (∃ b bytes, bytes.length ≤ capacity unitConfig b ∧ t = { s with mem := s.mem.set bytes b }) ∨
    (t.status = State.reset.status ∧ t.mem = State.reset.mem) := by
  cases a with
  | set r value =>
    rcases hostWrite_next h with hexec | hwrite
    · exact .inl hexec
    · obtain ⟨hstatus, hmem, -, -⟩ := writeReg_frame hwrite
      exact .inr (.inl ⟨hstatus, hmem⟩)
  | load b bytes =>
    obtain ⟨-, hfit, rfl⟩ := hostLoad_next h
    exact .inr (.inr (.inl ⟨b, bytes, hfit, rfl⟩))
  | cmd value => exact .inl ⟨commandOf value, h⟩
  | chk =>
    rw [perform, hostCheck_eq] at h
    cases h
    exact .inr (.inl ⟨rfl, rfl⟩)
  | rd r =>
    obtain ⟨v, -, rfl⟩ := hostRead_next h
    exact .inr (.inl ⟨rfl, rfl⟩)
  | rdbuf b =>
    cases h
    exact .inr (.inl ⟨rfl, rfl⟩)
  | readByte b index =>
    obtain ⟨v, -, rfl⟩ := hostReadByte_next h
    exact .inr (.inl ⟨rfl, rfl⟩)
  | drop =>
    cases h
    exact .inr (.inl ⟨rfl, rfl⟩)
  | reset =>
    cases h
    exact .inr (.inr (.inr ⟨rfl, rfl⟩))

/-- With no action pending a step leaves the state as it is (10_state.md R12). -/
theorem step_nil {s : State} (h : s.script = []) : step s = .next s := by
  unfold step stepAction
  rw [h]

/-- A step that answers a next state has waited, or has performed the next action. -/
theorem step_next {s t : State} (h : step s = .next t) :
    t = s ∨ ∃ a rest, s.script = a :: rest ∧ perform a (s.setScript rest) = .next t := by
  cases hs : s.script with
  | nil =>
    rw [step_nil hs] at h
    injection h with h
    exact .inl h.symm
  | cons a rest => exact .inr ⟨a, rest, rfl, step_cons hs ▸ h⟩

end Sys2Proof.Machine
end

section
/-! SUPPORT. The invariant of the unit: it holds after reset, every command and every action keep it, so every step
does (10_state.md R23; 60_exceptions.md R171, R172). -/

namespace Sys2Proof.Machine

/-- The invariant speaks of STATUS and the buffers only. -/
theorem unitInv_congr {s t : State} (hs : UnitInv s) (hstatus : t.status = s.status) (hmem : t.mem = s.mem) :
    UnitInv t := by
  unfold UnitInv at hs ⊢
  rwa [hstatus, hmem]

/-- Every error a command raises has a code STATUS can hold. -/
theorem statusLegal_errCode {e : Err} (h : e ∈ commandErrors) : statusLegal (errCode e) = true := by
  simpa [statusLegal] using Or.inr ⟨e, h, rfl⟩

/-- `OK` is a value STATUS can hold. -/
theorem statusLegal_ok : statusLegal 0x00#8 = true := by decide

/-- Settles O3: the reset buffers are empty and STATUS is `OK`. -/
theorem resetMeetsTheInvariant : Obligations.ResetMeetsTheInvariant :=
  ⟨State.reset_mem_wf, statusLegal_ok⟩

/-- Every command keeps the invariant. -/
theorem exec_keeps_unitInv {i : Instr} {s t : State} (hs : UnitInv s) (h : exec i s = .next t) : UnitInv t := by
  obtain ⟨hmem, -⟩ := hs
  rcases exec_next h with ⟨e, he, rfl⟩ | ⟨_, _, _, _, _, _, rfl⟩ | ⟨_, _, value, hfit, rfl⟩ | ⟨value, hfit, rfl⟩ |
    ⟨bytes, hfit, rfl⟩
  · exact ⟨hmem, statusLegal_errCode he⟩
  · exact ⟨hmem, statusLegal_ok⟩
  · exact ⟨Memory.set_wfIn (b := .bufVal) hmem hfit, statusLegal_ok⟩
  · exact ⟨Memory.set_wfIn (b := .bufVal) hmem hfit, statusLegal_ok⟩
  · exact ⟨Memory.set_wfIn (b := .bufOut) hmem hfit, statusLegal_ok⟩

/-- Every action of the outside world keeps the invariant. -/
theorem perform_keeps_unitInv {a : HostAction} {s t : State} (hs : UnitInv s) (h : perform a s = .next t) :
    UnitInv t := by
  rcases perform_next h with ⟨i, hexec⟩ | ⟨hstatus, hmem⟩ | ⟨b, bytes, hfit, rfl⟩ | ⟨hstatus, hmem⟩
  · exact exec_keeps_unitInv hs hexec
  · exact unitInv_congr hs hstatus hmem
  · exact ⟨Memory.set_wfIn hs.1 hfit, hs.2⟩
  · exact unitInv_congr resetMeetsTheInvariant hstatus hmem

/-- Settles O30, by the inversion of a step: it waits, or it performs one action, which keeps the invariant. -/
theorem everyStepKeepsTheInvariant : Obligations.EveryStepKeepsTheInvariant := by
  unfold Obligations.EveryStepKeepsTheInvariant
  intro s t hs h
  rcases step_next h with rfl | ⟨a, rest, -, hperform⟩
  · exact hs
  · have hs' : UnitInv (s.setScript rest) := unitInv_congr hs rfl rfl
    exact perform_keeps_unitInv hs' hperform

end Sys2Proof.Machine
end

section
/-! SUPPORT. Frames of the commands (10_state.md R33): each answer written as one update of the fields in the
command's write set, from which every frame statement is read off. -/

namespace Sys2Proof.Machine

/-- PARSEHDR and the rows of format MSGTYPE16 are PARSEHDR's function on a window. -/
theorem exec_headerParser {i : Instr} (hi : i = .parsehdr ∨ i.format = .msgType16) (s : State) :
    ∃ w, exec i s = parsehdrWith unitConfig w s := by
  rcases hi with rfl | hi
  · exact ⟨windowOperand s, rfl⟩
  · exact ⟨_, exec_msgType16 hi s⟩

/-- PARSEATTR and the rows of format ATTRTYPE16 are PARSEATTR's function on a window. -/
theorem exec_attributeParser {i : Instr} (hi : i = .parseattr ∨ i.format = .attrType16) (s : State) :
    ∃ w, exec i s = parseattrWith unitConfig w s := by
  rcases hi with rfl | hi
  · exact ⟨windowOperand s, rfl⟩
  · exact ⟨_, exec_attrType16 hi s⟩

/-- PARSEHDR and its rows update STATUS and the header registers, some of them with their old value. -/
theorem headerParser_update {i : Instr} {s t : State} (hi : i = .parsehdr ∨ i.format = .msgType16)
    (h : exec i s = .next t) : ∃ v cls method length a b d,
      t = (s.setStatus v).setHeader cls method length a b d := by
  obtain ⟨w, hw⟩ := exec_headerParser hi s
  rcases parsehdrWith_next unitConfig w s with ⟨e, -, -, ht⟩ | ⟨r, -, ht⟩
  all_goals
    rw [hw, ht] at h
    injection h with h
  · exact ⟨errCode e, s.hClass, s.hMethod, s.hLength, s.hTxid0, s.hTxid1, s.hTxid2, h.symm⟩
  · exact ⟨_, _, _, _, _, _, _, h.symm⟩

/-- PARSEATTR and its rows update STATUS, A_TYPE, A_LENGTH and VAL, some of them with their old value. -/
theorem attributeParser_update {i : Instr} {s t : State} (hi : i = .parseattr ∨ i.format = .attrType16)
    (h : exec i s = .next t) : ∃ v name length value,
      t = ((s.setStatus v).setAttribute name length).setBuffer .bufVal value := by
  obtain ⟨w, hw⟩ := exec_attributeParser hi s
  rw [hw] at h
  rcases parseattrWith_next h with ⟨e, -, -, rfl⟩ | ⟨a, -, -, rfl⟩
  · exact ⟨errCode e, s.aType, s.aLength, s.mem.bufVal, rfl⟩
  · exact ⟨_, _, _, _, rfl⟩

/-- GENHDR and GENATTR update STATUS and OUT. -/
theorem generator_update {i : Instr} {s t : State} (hi : i = .genhdr ∨ i = .genattr) (h : exec i s = .next t) :
    ∃ v bytes, t = (s.setStatus v).setBuffer .bufOut bytes := by
  rcases hi with rfl | rfl
  · rcases genhdrWith_next h with ⟨-, rfl⟩ | ⟨bytes, -, -, rfl⟩
    · exact ⟨_, s.mem.bufOut, rfl⟩
    · exact ⟨_, bytes, rfl⟩
  · rcases genattrWith_next h with ⟨e, -, -, rfl⟩ | ⟨bytes, -, -, rfl⟩
    · exact ⟨_, s.mem.bufOut, rfl⟩
    · exact ⟨_, bytes, rfl⟩

/-- GENXMA and RMPAD update STATUS and VAL. -/
theorem valueWriter_update {i : Instr} {s t : State} (hi : i = .genxma ∨ i = .rmpad) (h : exec i s = .next t) :
    ∃ v bytes, t = (s.setStatus v).setBuffer .bufVal bytes := by
  rcases hi with rfl | rfl
  · rcases genxmaWith_next h with ⟨e, -, -, rfl⟩ | ⟨bytes, -, -, rfl⟩
    · exact ⟨_, s.mem.bufVal, rfl⟩
    · exact ⟨_, bytes, rfl⟩
  · obtain ⟨-, rfl⟩ := rmpadWith_next h
    exact ⟨_, _, rfl⟩

/-- A replaced buffer leaves every byte of the other buffers. -/
theorem Memory.getElem?_get_set_other (m : Memory) (bytes : List Byte) {b b' : Buf} (h : b' ≠ b) (index : Nat) :
    ((m.set bytes b).get b')[index]? = (m.get b')[index]? := by
  rw [Memory.get_set_other m bytes h]

/-- Settles O17, by the update PARSEHDR and its rows make. -/
theorem headerParsersWriteHeaderRegistersOnly : Obligations.HeaderParsersWriteHeaderRegistersOnly := by
  unfold Obligations.HeaderParsersWriteHeaderRegistersOnly
  intro i s t hi h
  obtain ⟨v, cls, method, length, a, b, d, rfl⟩ := headerParser_update hi h
  simp

/-- Settles O18, by the update PARSEATTR and its rows make. -/
theorem attributeParsersWriteAttributeOperandsOnly : Obligations.AttributeParsersWriteAttributeOperandsOnly := by
  unfold Obligations.AttributeParsersWriteAttributeOperandsOnly
  intro i s t hi h
  obtain ⟨v, name, length, value, rfl⟩ := attributeParser_update hi h
  exact ⟨rfl, rfl, rfl, rfl, rfl, rfl, rfl, rfl,
    fun _ index hb => Memory.getElem?_get_set_other s.mem value hb index, rfl, rfl⟩

/-- Settles O19, by the update the two generators make. -/
theorem generatorsWriteOutOnly : Obligations.GeneratorsWriteOutOnly := by
  unfold Obligations.GeneratorsWriteOutOnly
  intro i s t hi h
  obtain ⟨v, out, rfl⟩ := generator_update hi h
  exact ⟨rfl, rfl, rfl, rfl, rfl, rfl, rfl, rfl, rfl, rfl,
    fun _ index hb => Memory.getElem?_get_set_other s.mem out hb index, rfl, rfl⟩

/-- Settles O20, by the update the two writers of VAL make. -/
theorem valueWritersWriteValOnly : Obligations.ValueWritersWriteValOnly := by
  unfold Obligations.ValueWritersWriteValOnly
  intro i s t hi h
  obtain ⟨v, value, rfl⟩ := valueWriter_update hi h
  exact ⟨rfl, rfl, rfl, rfl, rfl, rfl, rfl, rfl, rfl, rfl,
    fun _ index hb => Memory.getElem?_get_set_other s.mem value hb index, rfl, rfl⟩

/-- Settles O22, by the five kinds of answer an instruction has. -/
theorem noCommandWritesTheHostsOperands : Obligations.NoCommandWritesTheHostsOperands := by
  unfold Obligations.NoCommandWritesTheHostsOperands
  intro i s t h
  rcases exec_next h with ⟨_, _, rfl⟩ | ⟨_, _, _, _, _, _, rfl⟩ | ⟨_, _, _, _, rfl⟩ | ⟨_, _, rfl⟩ | ⟨_, _, rfl⟩ <;>
    exact ⟨rfl, rfl, rfl, rfl⟩

end Sys2Proof.Machine
end

section
/-! SUPPORT. What a command leaves in its write set, said through its pure function: STATUS tells whether the function
failed, and on `OK` the written operands are its result (10_state.md R33, R35; 60_exceptions.md R176). -/

namespace Sys2Proof.Machine

/-- How a command ends whose pure function answers `r`: STATUS holds the error, or `OK` and then what `written` reads
of the state is the result. -/
def EndsWith {α : Type} (r : Except Err α) (written : State → α) (t : State) : Prop :=
  match r with
  | .error e => t.status = errCode e
  | .ok a => t.status = 0x00#8 ∧ written t = a

/-- No error has the code `OK` (60_exceptions.md R171). -/
theorem errCode_ne_ok (e : Err) : errCode e ≠ 0x00#8 := by cases e <;> decide

/-- A command that ends with `OK` has written its function's result. -/
theorem EndsWith.result {α : Type} {r : Except Err α} {written : State → α} {t : State} (h : EndsWith r written t)
    (hok : t.status = 0x00#8) : r = .ok (written t) := by
  cases r with
  | error e => exact absurd (h.symm.trans hok) (errCode_ne_ok e)
  | ok a => rw [h.2]

/-- Two commands with one function's answer end with the same STATUS and, on `OK`, the same result. -/
theorem EndsWith.alike {α : Type} {r : Except Err α} {written : State → α} {t t' : State}
    (h : EndsWith r written t) (h' : EndsWith r written t') :
    t.status = t'.status ∧ (t.status = 0x00#8 → written t = written t') := by
  cases r with
  | error e => exact ⟨h.trans h'.symm, fun hok => absurd (h.symm.trans hok) (errCode_ne_ok e)⟩
  | ok a => exact ⟨h.1.trans h'.1.symm, fun _ => h.2.trans h'.2.symm⟩

/-- The six header registers. -/
def headerRegisters (t : State) : ClassCode × MethodCode × Word16 × Word32 × Word32 × Word32 :=
  (t.hClass, t.hMethod, t.hLength, t.hTxid0, t.hTxid1, t.hTxid2)

/-- The values PARSEHDR gives the header registers for a window and the header parsed from it (42_header.md R146). -/
def parsedRegisters (w : List Byte) (h : Header) : ClassCode × MethodCode × Word16 × Word32 × Word32 × Word32 :=
  (h.cls, h.method, h.length, BitVec.ofNat 32 (field w 8 12), BitVec.ofNat 32 (field w 12 16),
    BitVec.ofNat 32 (field w 16 20))

/-- PARSEHDR leaves the parsed header in the header registers. -/
theorem execParsehdr_endsWith {s t : State} (h : exec .parsehdr s = .next t) :
    EndsWith ((parseHeader unitConfig (windowOperand s)).map (parsedRegisters (windowOperand s)))
      headerRegisters t := by
  rcases parsehdrWith_next unitConfig (windowOperand s) s with ⟨e, -, hr, ht⟩ | ⟨r, hr, ht⟩
  all_goals
    rw [hr]
    cases ht.symm.trans h
  · rfl
  · exact ⟨rfl, rfl⟩

/-- GENHDR leaves the generated bytes in OUT. -/
theorem execGenhdr_endsWith {s t : State} (h : exec .genhdr s = .next t) :
    EndsWith (generateHeader unitConfig (headerOperand s)) (·.mem.bufOut) t := by
  rcases genhdrWith_next h with ⟨hr, rfl⟩ | ⟨bytes, hr, -, rfl⟩ <;> rw [hr]
  · rfl
  · exact ⟨rfl, rfl⟩

/-- PARSEATTR leaves what it has parsed in the operands of GENATTR. -/
theorem execParseattr_endsWith {s t : State} (h : exec .parseattr s = .next t) :
    EndsWith (parseAttribute unitConfig (windowOperand s)) attributeOperand t := by
  rcases parseattrWith_next h with ⟨e, -, hr, rfl⟩ | ⟨a, hr, -, rfl⟩ <;> rw [hr]
  · rfl
  · exact ⟨rfl, rfl⟩

/-- GENATTR leaves the generated bytes in OUT. -/
theorem execGenattr_endsWith {s t : State} (h : exec .genattr s = .next t) :
    EndsWith (generateAttribute unitConfig (attributeOperand s)) (·.mem.bufOut) t := by
  rcases genattrWith_next h with ⟨e, -, hr, rfl⟩ | ⟨bytes, hr, -, rfl⟩ <;> rw [hr]
  · rfl
  · exact ⟨rfl, rfl⟩

/-- GENXMA leaves the generated value in VAL. -/
theorem execGenxma_endsWith {s t : State} (h : exec .genxma s = .next t) :
    EndsWith (generateXorMappedAddress (addressOperand s)) (·.mem.bufVal) t := by
  rcases genxmaWith_next h with ⟨e, -, hr, rfl⟩ | ⟨bytes, hr, -, rfl⟩ <;> rw [hr]
  · rfl
  · exact ⟨rfl, rfl⟩

/-! ### Facts about the results -/

/-- A header that parses has the method Binding (42_header.md R145). -/
theorem parseHeader_ok_method {c : Config} {w : List Byte} {h : Header} (hh : parseHeader c w = .ok h) :
    h.method = methodBinding := by
  unfold parseHeader at hh
  simp only at hh
  split_ifs at hh with _ _ _ hmethod
  injection hh with hh
  exact hh ▸ not_not.mp hmethod

/-- A name an admissible registry gives is one of the eight (30_encoding.md R76). -/
theorem nameForCode_toNat_le {r : List RegistryRow} (h : registryAdmissible r = true) {code : Word16} {name : NameId}
    (hn : nameForCode r code = some name) : name.toNat ≤ 7 := by
  obtain ⟨hnames, hcodes, -⟩ := registryAdmissible_iff.mp h
  have hmem : name ∈ r.map (·.name) := List.mem_map.mpr ⟨_, (nameForCode_eq_some hcodes).mp hn, rfl⟩
  have hle : ∀ n ∈ [0#4, 1#4, 2#4, 3#4, 4#4, 5#4, 6#4, 7#4], n.toNat ≤ 7 := by decide
  exact hle name (hnames ▸ hmem)

/-- `removePadding` leaves no trailing zero byte (41_attribute.md R122). -/
theorem removePadding_getLast? (value : List Byte) :
    removePadding value = [] ∨ ∃ b, (removePadding value).getLast? = some b ∧ b ≠ 0x00#8 := by
  by_cases hnil : removePadding value = []
  · exact .inl hnil
  · have hlast : ¬ ((removePadding value).getLast hnil == 0x00#8) = true :=
      List.rdropWhile_last_not (· == 0x00#8) value hnil
    exact .inr ⟨_, List.getLast?_eq_some_getLast hnil, by simpa using hlast⟩

/-- Settles O27, by the facts about each command's pure function. -/
theorem whatHoldsAfterSuccess : Obligations.WhatHoldsAfterSuccess := by
  unfold Obligations.WhatHoldsAfterSuccess
  intro s t
  refine ⟨fun h hok => ?_, fun h hok => ?_, fun h hok => ?_, fun h hok => ?_, fun h hok => ?_, fun h hok => ?_⟩
  case refine_1 =>
    have hr := (execParsehdr_endsWith h).result hok
    cases hp : parseHeader unitConfig (windowOperand s) with
    | error e => rw [hp] at hr; cases hr
    | ok header =>
      rw [hp] at hr
      injection hr with hr
      have hmethod : header.method = t.hMethod := congrArg (·.2.1) hr
      rw [← hmethod]
      exact parseHeader_ok_method hp
  case refine_2 =>
    obtain ⟨hvalue, hwindow, -, -, hname⟩ := parseAttribute_ok ((execParseattr_endsWith h).result hok)
    obtain ⟨v, name, length, value, rfl⟩ := attributeParser_update (.inl rfl) h
    exact ⟨nameForCode_toNat_le unitConfig_admissible hname, hvalue, hwindow⟩
  case refine_3 => exact generateXorMappedAddress_length ((execGenxma_endsWith h).result hok)
  case refine_4 => exact generateHeader_length ((execGenhdr_endsWith h).result hok)
  case refine_5 =>
    obtain ⟨-, hlength⟩ := generateAttribute_length ((execGenattr_endsWith h).result hok)
    obtain ⟨v, bytes, rfl⟩ := generator_update (.inr rfl) h
    exact ⟨by rw [hlength]; omega, hlength⟩
  case refine_6 =>
    obtain ⟨-, rfl⟩ := rmpadWith_next h
    exact removePadding_getLast? s.mem.bufVal

/-- Settles O29: each command's pure function reads the read set, and the command ends with what the function
answers. -/
theorem commandsDependOnTheirReadSetOnly : Obligations.CommandsDependOnTheirReadSetOnly := by
  unfold Obligations.CommandsDependOnTheirReadSetOnly
  intro s s' t t'
  refine ⟨?parsehdr, ?genhdr, ?parseattr, ?genattr, ?genxma, ?rmpad⟩
  case parsehdr =>
    intro hin h h'
    have hread : windowOperand s = windowOperand s' := hin
    have hends := execParsehdr_endsWith h
    rw [hread] at hends
    simpa [headerRegisters] using hends.alike (execParsehdr_endsWith h')
  case genhdr =>
    intro hcls hmethod hlength h0 h1 h2 h h'
    have hread : headerOperand s = headerOperand s' := by
      simp [headerOperand, State.txid, hcls, hmethod, hlength, h0, h1, h2]
    exact (hread ▸ execGenhdr_endsWith h).alike (execGenhdr_endsWith h')
  case parseattr =>
    intro hin h h'
    have hread : windowOperand s = windowOperand s' := hin
    have hends := execParseattr_endsWith h
    rw [hread] at hends
    simpa [attributeOperand] using hends.alike (execParseattr_endsWith h')
  case genattr =>
    intro hname hlength hval h h'
    have hread : attributeOperand s = attributeOperand s' := by simp [attributeOperand, hname, hlength, hval]
    exact (hread ▸ execGenattr_endsWith h).alike (execGenattr_endsWith h')
  case genxma =>
    intro hfamily hport haddr h h'
    have hread : addressOperand s = addressOperand s' := by simp [addressOperand, hfamily, hport, haddr]
    exact (hread ▸ execGenxma_endsWith h).alike (execGenxma_endsWith h')
  case rmpad =>
    intro hval h h'
    obtain ⟨-, rfl⟩ := rmpadWith_next h
    obtain ⟨-, rfl⟩ := rmpadWith_next h'
    simp [hval]

end Sys2Proof.Machine
end

section
/-! SUPPORT. What the commands do not read: the bytes of a window after its field, and STATUS (10_state.md R13;
42_header.md R144; 41_attribute.md R113). -/

namespace Sys2Proof.Machine

/-- A field within a window does not depend on what follows the window. -/
theorem field_append {w : List Byte} {a b : Nat} (hab : a ≤ b) (hb : b ≤ w.length) (rest : List Byte) :
    field (w ++ rest) a b = field w a b := by
  have hdrop : b - a ≤ (w.drop a).length := by rw [List.length_drop]; omega
  unfold field slice
  rw [List.drop_append_of_le_length (hab.trans hb), List.take_append_of_le_length hdrop]

/-- `parseHeader` reads the first twenty bytes only. -/
theorem parseHeader_append (c : Config) {w : List Byte} (hw : w.length = 20) (rest : List Byte) :
    parseHeader c (w ++ rest) = parseHeader c w := by
  have getD_append : ∀ k < 20, (w ++ rest).getD k 0x00#8 = w.getD k 0x00#8 := fun k hk =>
    List.getD_append _ _ _ _ (hw ▸ hk)
  have hlong : ¬ (w ++ rest).length < hdrLen := by simp [hw, hdrLen]
  have hexact : ¬ w.length < hdrLen := by simp [hw, hdrLen]
  unfold parseHeader
  rw [if_neg hlong, if_neg hexact, field_append (by decide) (by omega), field_append (by decide) (by omega),
    field_append (by decide) (by omega), getD_append 0 (by decide), getD_append 1 (by decide)]

/-- PARSEHDR on a window reads the first twenty bytes only. -/
theorem parsehdrWith_append (c : Config) {w : List Byte} (hw : w.length = 20) (rest : List Byte) (s : State) :
    parsehdrWith c (w ++ rest) s = parsehdrWith c w s := by
  unfold parsehdrWith
  rw [parseHeader_append c hw, field_append (by decide) (by omega), field_append (by decide) (by omega),
    field_append (by decide) (by omega)]

/-- `parseAttribute` reads nothing after a complete value. -/
theorem parseAttribute_append (c : Config) (c0 c1 l0 l1 : Byte) {value : List Byte}
    (hvalue : value.length = (word16 l0 l1).toNat) (rest : List Byte) :
    parseAttribute c (attributeWindow c0 c1 l0 l1 (value ++ rest)) =
      parseAttribute c (attributeWindow c0 c1 l0 l1 value) := by
  simp [parseAttribute_attributeWindow, ← hvalue]

/-- PARSEATTR on a window reads nothing after a complete value. -/
theorem parseattrWith_append (c : Config) (c0 c1 l0 l1 : Byte) {value : List Byte}
    (hvalue : value.length = (word16 l0 l1).toNat) (rest : List Byte) (s : State) :
    parseattrWith c (attributeWindow c0 c1 l0 l1 (value ++ rest)) s =
      parseattrWith c (attributeWindow c0 c1 l0 l1 value) s := by
  unfold parseattrWith
  rw [parseAttribute_append c c0 c1 l0 l1 hvalue]

/-- PARSEHDR on a given window neither reads nor writes IN. -/
theorem parsehdrWith_setBuffer_bufIn {c : Config} {w : List Byte} {s t : State} (h : parsehdrWith c w s = .next t)
    (bytes : List Byte) : parsehdrWith c w (s.setBuffer .bufIn bytes) = .next (t.setBuffer .bufIn bytes) := by
  cases hp : parseHeader c w with
  | error e =>
    rw [parsehdrWith_error _ hp] at h ⊢
    cases h
    rfl
  | ok r =>
    rw [parsehdrWith_ok _ hp] at h ⊢
    cases h
    rfl

/-- PARSEATTR on a given window neither reads nor writes IN. -/
theorem parseattrWith_setBuffer_bufIn {c : Config} {w : List Byte} {s t : State} (h : parseattrWith c w s = .next t)
    (bytes : List Byte) : parseattrWith c w (s.setBuffer .bufIn bytes) = .next (t.setBuffer .bufIn bytes) := by
  rcases parseattrWith_next h with ⟨e, -, hp, rfl⟩ | ⟨a, hp, hfit, rfl⟩
  · exact parseattrWith_error _ hp
  · rw [parseattrWith_ok _ hp, succeedWriting_fits _ hfit]
    rfl

/-- Settles O28: the pure parsers answer alike on both windows, and the commands carry IN along untouched. -/
theorem parsersReadNothingBeyondTheirField : Obligations.ParsersReadNothingBeyondTheirField := by
  unfold Obligations.ParsersReadNothingBeyondTheirField
  constructor
  · intro s w r r' t hw h
    have hexec (rest : List Byte) : exec .parsehdr (s.setBuffer .bufIn (w ++ rest)) =
        parsehdrWith unitConfig w (s.setBuffer .bufIn (w ++ rest)) := parsehdrWith_append _ hw rest _
    exact (hexec r').trans (parsehdrWith_setBuffer_bufIn ((hexec r).symm.trans h) (w ++ r'))
  · intro s c0 c1 l0 l1 value r r' t hvalue h
    have hexec (rest : List Byte) :
        exec .parseattr (s.setBuffer .bufIn (attributeWindow c0 c1 l0 l1 (value ++ rest))) =
          parseattrWith unitConfig (attributeWindow c0 c1 l0 l1 value)
            (s.setBuffer .bufIn (attributeWindow c0 c1 l0 l1 (value ++ rest))) :=
      parseattrWith_append _ c0 c1 l0 l1 hvalue rest _
    exact (hexec r').trans (parseattrWith_setBuffer_bufIn ((hexec r).symm.trans h) _)

/-! ### STATUS is not read -/

/-- A write to a buffer that completes a command overwrites STATUS unread. -/
theorem succeedWriting_setStatus (c : Config) (b : Buf) (bytes : List Byte) (s : State) (v : Byte) :
    succeedWriting c b bytes (s.setStatus v) = succeedWriting c b bytes s := rfl

theorem parsehdrWith_setStatus (c : Config) (w : List Byte) (s : State) (v : Byte) :
    parsehdrWith c w (s.setStatus v) = parsehdrWith c w s := by
  unfold parsehdrWith
  cases parseHeader c w <;> rfl

theorem parseattrWith_setStatus (c : Config) (w : List Byte) (s : State) (v : Byte) :
    parseattrWith c w (s.setStatus v) = parseattrWith c w s := by
  unfold parseattrWith
  cases parseAttribute c w <;> rfl

theorem genhdrWith_setStatus (c : Config) (s : State) (v : Byte) : genhdrWith c (s.setStatus v) = genhdrWith c s := by
  have hread : headerOperand (s.setStatus v) = headerOperand s := rfl
  unfold genhdrWith
  rw [hread]
  cases generateHeader c (headerOperand s) <;> rfl

theorem genattrWith_setStatus (c : Config) (s : State) (v : Byte) :
    genattrWith c (s.setStatus v) = genattrWith c s := by
  have hread : attributeOperand (s.setStatus v) = attributeOperand s := rfl
  unfold genattrWith
  rw [hread]
  cases generateAttribute c (attributeOperand s) <;> rfl

theorem genxmaWith_setStatus (c : Config) (s : State) (v : Byte) : genxmaWith c (s.setStatus v) = genxmaWith c s := by
  have hread : addressOperand (s.setStatus v) = addressOperand s := rfl
  unfold genxmaWith
  rw [hread]
  cases generateXorMappedAddress (addressOperand s) <;> rfl

/-- Settles O25, by command; the table's 16-bit rows are the two parsers on a window of their own. -/
theorem noCommandReadsStatus : Obligations.NoCommandReadsStatus := by
  unfold Obligations.NoCommandReadsStatus
  intro i s v
  cases i with
  | parsehdr | bindingRequest | bindingIndication | bindingSuccess | bindingError | msgtype =>
    exact parsehdrWith_setStatus _ _ s v
  | parseattr | mappedAddress | username | messageIntegrity | errorCode | unknownAttributes | realm | nonce
  | xorMappedAddress | unknown => exact parseattrWith_setStatus _ _ s v
  | genhdr => exact genhdrWith_setStatus _ s v
  | genattr => exact genattrWith_setStatus _ s v
  | genxma => exact genxmaWith_setStatus _ s v
  | rmpad => exact succeedWriting_setStatus _ _ _ s v
  | illegal => rfl

end Sys2Proof.Machine
end

section
/-! SUPPORT. The host's port and the registers: the actions refused, the views that length registers are, and the
statements about one step of the host (10_state.md R28, R32, R34). -/

namespace Sys2Proof.Machine

/-- A host write of a register outside the host's rights is refused. -/
theorem hostSet_forbidden {r : Reg} {value : Nat} {s : State} (h : writeReg s value r = none) :
    hostSet r value s = .refused (.writeForbidden r) := by
  unfold hostSet
  rw [h]

/-- A host write of a value wider than the register is refused. -/
theorem hostSet_tooWide {r : Reg} {value : Nat} {s t : State} (h : writeReg s value r = some t)
    (hwide : 2 ^ regWidth r ≤ value) : hostSet r value s = .refused (.valueTooWide r) := by
  unfold hostSet
  rw [h]
  exact if_neg hwide.not_gt

/-- A host write of a value of the register's width is performed. -/
theorem hostSet_fits {r : Reg} {value : Nat} {s t : State} (h : writeReg s value r = some t)
    (hfit : value < 2 ^ regWidth r) : hostSet r value s = .next t := by
  unfold hostSet
  rw [h]
  exact if_pos hfit

/-- A register the host may write has a state after the write. -/
theorem exists_writeReg {r : Reg} (s : State) (value : Nat) (hlo : 2 ≤ regNumber r) (hhi : regNumber r ≤ 11) :
    ∃ t, writeReg s value r = some t :=
  Option.ne_none_iff_exists'.mp fun h => (writeReg_eq_none_iff s value r).mp h ⟨hlo, hhi⟩

/-- Registers 0 and 1 are CMD and STATUS (10_state.md R11). -/
theorem two_le_regNumber {r : Reg} (hcmd : r ≠ .cmd) (hstatus : r ≠ .status) : 2 ≤ regNumber r := by
  revert hcmd hstatus
  cases r <;> decide

/-- A step whose action is a host write of STATUS or of a length register is refused. -/
theorem step_set_forbidden {s : State} {r : Reg} {value : Nat} {rest : List HostAction}
    (hs : s.script = .set r value :: rest) (hr : r = .status ∨ 12 ≤ regNumber r) :
    step s = .refused (.writeForbidden r) := by
  have hcmd : r ≠ .cmd := by
    rintro rfl
    exact absurd hr (by decide)
  have hnone : writeReg (s.setScript rest) value r = none := by
    rw [writeReg_eq_none_iff]
    rcases hr with rfl | hr
    · decide
    · omega
  rw [step_cons hs, perform, hostWrite_eq_hostSet hcmd, hostSet_forbidden hnone]

/-- A step whose action is a host write of a value too wide for a register with a smaller number is refused. -/
theorem step_set_tooWide {s : State} {r : Reg} {value : Nat} {rest : List HostAction}
    (hs : s.script = .set r value :: rest) (hstatus : r ≠ .status) (hr : regNumber r < 12)
    (hwide : 2 ^ regWidth r ≤ value) : step s = .refused (.valueTooWide r) := by
  rw [step_cons hs, perform]
  by_cases hcmd : r = .cmd
  · subst hcmd
    rw [hostWrite_cmd, if_neg hwide.not_gt]
  · obtain ⟨t, ht⟩ := exists_writeReg (s.setScript rest) value (two_le_regNumber hcmd hstatus) (Nat.le_of_lt_succ hr)
    rw [hostWrite_eq_hostSet hcmd, hostSet_tooWide ht hwide]

/-- A load of OUT is refused (20_memory.md R56). -/
theorem hostLoad_forbidden (c : Config) (bytes : List Byte) (s : State) :
    hostLoad c .bufOut bytes s = .refused (.loadForbidden .bufOut) := rfl

/-- A load over the capacity is refused. -/
theorem hostLoad_tooLong {c : Config} {b : Buf} {bytes : List Byte} (s : State) (hb : b ≠ .bufOut)
    (hlong : capacity c b < bytes.length) : hostLoad c b bytes s = .refused (.loadTooLong b) := by
  unfold hostLoad
  rw [if_neg hb, if_neg hlong.not_ge]

/-- A read of a byte at or beyond the length is refused. -/
theorem hostReadByte_beyond {b : Buf} {index : Nat} {s : State} (h : (s.mem.get b).length ≤ index) :
    hostReadByte b index s = .refused (.readBeyond b) := by
  unfold hostReadByte
  rw [List.getElem?_eq_none h]

/-- Settles O52, by the refusal of each action. -/
theorem hostActionsWithoutARightAreRefused : Obligations.HostActionsWithoutARightAreRefused := by
  unfold Obligations.HostActionsWithoutARightAreRefused
  intro s rest
  refine ⟨fun r value => step_set_forbidden, fun r value => step_set_tooWide, ?readCmd, ?loadOut, ?loadLong,
    ?readBeyond⟩
  case readCmd =>
    intro hs
    rw [step_cons hs]
    rfl
  case loadOut =>
    intro bytes hs
    rw [step_cons hs]
    exact hostLoad_forbidden _ _ _
  case loadLong =>
    intro b bytes hs hb hlong
    rw [step_cons hs]
    exact hostLoad_tooLong _ hb hlong
  case readBeyond =>
    intro b index hs hbeyond
    rw [step_cons hs]
    exact hostReadByte_beyond hbeyond

/-- Settles O49, by what a register write stores and leaves. -/
theorem hostWritesOneRegister : Obligations.HostWritesOneRegister := by
  unfold Obligations.HostWritesOneRegister
  intro s r value rest hs hlo hhi hfit
  obtain ⟨t, ht⟩ := exists_writeReg (s.setScript rest) value hlo hhi
  obtain ⟨-, hmem, hscript, hobserved⟩ := writeReg_frame ht
  have hcmd : r ≠ .cmd := by
    rintro rfl
    exact absurd hlo (by decide)
  have hstep : step s = .next t := by
    rw [step_cons hs, perform, hostWrite_eq_hostSet hcmd, hostSet_fits ht hfit]
  have hother (r' : Reg) (hne : r' ≠ r) : readReg t r' = readReg s r' := by
    rw [readReg_writeReg_other ht hne]
    rfl
  exact ⟨t, hstep, readReg_writeReg_same ht hfit, hother, hmem, hscript, hobserved⟩

/-- Settles O48: waiting is the case of an empty script. -/
theorem unitWaitsForTheNextAction : Obligations.UnitWaitsForTheNextAction := by
  unfold Obligations.UnitWaitsForTheNextAction
  exact fun _ => step_nil

/-- Settles O46: the command decoder reads the command that a CMD write selects. -/
theorem stepExecutesTheCommandWritten : Obligations.StepExecutesTheCommandWritten := by
  unfold Obligations.StepExecutesTheCommandWritten
  intro s op rest i hs hdecode
  have hi : commandOf op = i := by
    injection hdecode with hdecode
    exact congrArg Prod.fst hdecode
  subst hi
  rcases hs with hs | hs
  · exact step_cmd hs
  · have hfit : op.toNat < 2 ^ regWidth .cmd := op.isLt
    rw [step_cons hs, perform, hostWrite_cmd, if_pos hfit, BitVec.ofNat_toNat, BitVec.setWidth_eq]
    rfl

/-! ### Length registers -/

/-- A length register reads the length of its buffer, cut to the register's width (10_state.md R28). -/
theorem readReg_lengthRegister (s : State) (b : Buf) :
    readReg s (lengthRegister b) = some ((s.mem.get b).length % 2 ^ regWidth (lengthRegister b)) := by
  cases b <;> rfl

/-- The width of a length register holds the capacity of its buffer. -/
theorem capacity_lt_lengthRegister (b : Buf) : capacity unitConfig b < 2 ^ regWidth (lengthRegister b) := by
  cases b <;> decide

/-- In a memory of the unit every buffer is within its capacity. -/
theorem Memory.wf_length_le {m : Memory} (hm : m.wf) (b : Buf) : (m.get b).length ≤ capacity unitConfig b := by
  obtain ⟨hin, hval, hout, hxaddr⟩ := hm
  cases b
  · exact hin
  · exact hval
  · exact hout
  · exact hxaddr

/-- In a state whose buffers are within capacity a length register reads the length of its buffer. -/
theorem readReg_lengthRegister_of_wf {s : State} (hs : s.mem.wf) (b : Buf) :
    readReg s (lengthRegister b) = some (s.mem.get b).length := by
  have hfit := (Memory.wf_length_le hs b).trans_lt (capacity_lt_lengthRegister b)
  rw [readReg_lengthRegister, Nat.mod_eq_of_lt hfit]

/-- The length registers are outside the host's rights. -/
theorem twelve_le_regNumber_lengthRegister (b : Buf) : 12 ≤ regNumber (lengthRegister b) := by
  cases b <;> decide

/-- Settles O60: a length register reads the buffer's length modulo its width, which holds the capacity. -/
theorem lengthRegistersAreViewsOfTheBuffers : Obligations.LengthRegistersAreViewsOfTheBuffers := by
  unfold Obligations.LengthRegistersAreViewsOfTheBuffers
  refine ⟨?views, ?readOnly, ?sameBuffer, rfl, rfl, rfl, rfl, capacity_lt_lengthRegister⟩
  case views =>
    intro s hs
    have hread := readReg_lengthRegister_of_wf hs
    exact ⟨Option.some.inj (hread .bufIn), Option.some.inj (hread .bufVal), Option.some.inj (hread .bufOut),
      Option.some.inj (hread .bufXaddr), hread⟩
  case readOnly =>
    intro s b value rest hs
    exact step_set_forbidden hs (.inr (twelve_le_regNumber_lengthRegister b))
  case sameBuffer =>
    intro s t b hbuf
    rw [readReg_lengthRegister, readReg_lengthRegister, hbuf]

/-- Settles O1, field by field. -/
theorem resetClearsEveryRegisterAndBuffer : Obligations.ResetClearsEveryRegisterAndBuffer := by
  unfold Obligations.ResetClearsEveryRegisterAndBuffer
  have hbuffers (b : Buf) : State.reset.mem.get b = [] := by cases b <;> rfl
  exact ⟨rfl, rfl, rfl, rfl, rfl, rfl, rfl, rfl, rfl, rfl, rfl, hbuffers, rfl, rfl, rfl, rfl, rfl⟩

end Sys2Proof.Machine
end

section
/-! SUPPORT. Issuing a command again (20_memory.md R48): the second run reads what the first one read, answers the same,
and writes what already stands there. -/

namespace Sys2Proof.Machine

/-- Replacing a buffer a second time by the same bytes changes nothing. -/
theorem Memory.set_set_same (m : Memory) (bytes : List Byte) (b : Buf) :
    (m.set bytes b).set bytes b = m.set bytes b := by
  cases b <;> rfl

/-- A completing write issued again finds its own result. -/
theorem succeedWriting_again {c : Config} {b : Buf} {bytes : List Byte} {s t : State}
    (h : succeedWriting c b bytes s = .next t) : succeedWriting c b bytes t = .next t := by
  obtain ⟨hfit, rfl⟩ := succeedWriting_next h
  rw [succeedWriting_fits _ hfit]
  simp only [Memory.set_set_same]

/-- How a command ends whose pure function answers `r` and whose result is a whole buffer (60_exceptions.md R176;
20_memory.md R47). -/
def finishWriting (c : Config) (b : Buf) (r : Except Err (List Byte)) (s : State) : Result :=
  match r with
  | .error e => raise e s
  | .ok bytes => succeedWriting c b bytes s

/-- GENHDR ends by writing OUT whole (42_header.md R150). -/
theorem genhdrWith_eq_finishWriting (c : Config) (s : State) :
    genhdrWith c s = finishWriting c .bufOut (generateHeader c (headerOperand s)) s := rfl

/-- GENATTR ends by writing OUT whole (41_attribute.md R116). -/
theorem genattrWith_eq_finishWriting (c : Config) (s : State) :
    genattrWith c s = finishWriting c .bufOut (generateAttribute c (attributeOperand s)) s := rfl

/-- GENXMA ends by writing VAL whole (41_attribute.md R120). -/
theorem genxmaWith_eq_finishWriting (c : Config) (s : State) :
    genxmaWith c s = finishWriting c .bufVal (generateXorMappedAddress (addressOperand s)) s := rfl

/-- With the same answer of the pure function, a command that writes a whole buffer ends again where it ended. -/
theorem finishWriting_again {c : Config} {b : Buf} {r : Except Err (List Byte)} {s t : State}
    (h : finishWriting c b r s = .next t) : finishWriting c b r t = .next t := by
  cases r with
  | error e =>
    cases h
    rfl
  | ok bytes => exact succeedWriting_again h

/-- PARSEHDR again on the same window. -/
theorem parsehdrWith_again {c : Config} {w : List Byte} {s t : State} (h : parsehdrWith c w s = .next t) :
    parsehdrWith c w t = .next t := by
  rcases parsehdrWith_next c w s with ⟨e, -, hp, ht⟩ | ⟨r, hp, ht⟩
  all_goals cases ht.symm.trans h
  · exact parsehdrWith_error _ hp
  · exact parsehdrWith_ok _ hp

/-- PARSEATTR again on the same window. -/
theorem parseattrWith_again {c : Config} {w : List Byte} {s t : State} (h : parseattrWith c w s = .next t) :
    parseattrWith c w t = .next t := by
  rcases parseattrWith_next h with ⟨e, -, hp, rfl⟩ | ⟨a, hp, hfit, rfl⟩
  · exact parseattrWith_error _ hp
  · rw [parseattrWith_ok _ hp, succeedWriting_fits _ hfit]
    rfl

/-- A value without padding has none to remove (41_attribute.md R122). -/
theorem removePadding_idem (value : List Byte) : removePadding (removePadding value) = removePadding value :=
  List.rdropWhile_idempotent (· == 0x00#8) value

/-- RMPAD again, on the value it has stripped. -/
theorem rmpadWith_again {c : Config} {s t : State} (h : rmpadWith c s = .next t) : rmpadWith c t = .next t := by
  obtain ⟨-, ht⟩ := rmpadWith_next h
  have hvalue : removePadding (valueOperand t) = removePadding (valueOperand s) := by
    subst ht
    exact removePadding_idem s.mem.bufVal
  unfold rmpadWith at h ⊢
  rw [hvalue]
  exact succeedWriting_again h

/-- Settles O26, by command: none writes what it reads, but for RMPAD, whose function is idempotent. -/
theorem repeatingACommandChangesNothing : Obligations.RepeatingACommandChangesNothing := by
  unfold Obligations.RepeatingACommandChangesNothing
  intro i s t h
  obtain ⟨hin, hxaddr, hfamily, hport⟩ := noCommandWritesTheHostsOperands i s t h
  cases i with
  | parsehdr =>
    have hread : windowOperand t = windowOperand s := hin
    simp only [exec, execParsehdr, hread]
    exact parsehdrWith_again h
  | parseattr =>
    have hread : windowOperand t = windowOperand s := hin
    simp only [exec, execParseattr, hread]
    exact parseattrWith_again h
  | bindingRequest | bindingIndication | bindingSuccess | bindingError | msgtype =>
    rw [exec_msgType16 rfl] at h ⊢
    rw [hin]
    exact parsehdrWith_again h
  | mappedAddress | username | messageIntegrity | errorCode | unknownAttributes | realm | nonce
  | xorMappedAddress | unknown =>
    rw [exec_attrType16 rfl] at h ⊢
    rw [hin]
    exact parseattrWith_again h
  | genhdr =>
    obtain ⟨v, out, ht⟩ := generator_update (.inl rfl) h
    have hread : headerOperand t = headerOperand s := by rw [ht]; rfl
    simp only [exec, execGenhdr, genhdrWith_eq_finishWriting, hread]
    exact finishWriting_again h
  | genattr =>
    obtain ⟨v, out, ht⟩ := generator_update (.inr rfl) h
    have hread : attributeOperand t = attributeOperand s := by rw [ht]; rfl
    simp only [exec, execGenattr, genattrWith_eq_finishWriting, hread]
    exact finishWriting_again h
  | genxma =>
    have hread : addressOperand t = addressOperand s := by simp only [addressOperand, hfamily, hxaddr, hport]
    simp only [exec, execGenxma, genxmaWith_eq_finishWriting, hread]
    exact finishWriting_again h
  | rmpad => exact rmpadWith_again h
  | illegal opcode =>
    cases h
    rfl

end Sys2Proof.Machine
end

section
/-! SUPPORT. What a host load and a host read answer within the host's rights (10_state.md R34; 20_memory.md R48,
R56). -/

namespace Sys2Proof.Machine

/-- A load within the capacity of a buffer other than OUT replaces that buffer. -/
theorem hostLoad_fits {c : Config} {b : Buf} {bytes : List Byte} (s : State) (hb : b ≠ .bufOut)
    (hfit : bytes.length ≤ capacity c b) : hostLoad c b bytes s = .next (s.setBuffer b bytes) := by
  unfold hostLoad
  rw [if_neg hb, if_pos hfit]

/-- A read of a readable register records its value. -/
theorem hostRead_some {r : Reg} {value : Nat} {s : State} (h : readReg s r = some value) :
    hostRead r s = .next (s.observe (.reg r value)) := by
  unfold hostRead
  rw [h]

/-- A read of a byte below the length records that byte. -/
theorem hostReadByte_some {b : Buf} {index : Nat} {value : Byte} {s : State}
    (h : (s.mem.get b)[index]? = some value) : hostReadByte b index s = .next (s.observe (.byte b index value)) := by
  unfold hostReadByte
  rw [h]

/-- No register reads the script. -/
theorem readReg_setScript (s : State) (actions : List HostAction) (r : Reg) :
    readReg (s.setScript actions) r = readReg s r := rfl

/-- The length register of a buffer that is within its capacity reads the buffer's length. -/
theorem readReg_lengthRegister_of_le {s : State} {b : Buf} (hfit : (s.mem.get b).length ≤ capacity unitConfig b) :
    readReg s (lengthRegister b) = some (s.mem.get b).length := by
  rw [readReg_lengthRegister, Nat.mod_eq_of_lt (hfit.trans_lt (capacity_lt_lengthRegister b))]

/-- Settles O50, by what a load within the capacity replaces. -/
theorem hostLoadsAWholeBuffer : Obligations.HostLoadsAWholeBuffer := by
  unfold Obligations.HostLoadsAWholeBuffer
  intro s b bytes rest hs hb hfit
  have hstep : step s = .next ((s.setScript rest).setBuffer b bytes) := by
    rw [step_cons hs, perform, hostLoad_fits _ hb hfit]
  have hget : ((s.setScript rest).setBuffer b bytes).mem.get b = bytes := Memory.get_set_same s.mem bytes b
  have hlength := readReg_lengthRegister_of_le (hget.symm ▸ hfit)
  rw [hget] at hlength
  exact ⟨_, hstep, hget, hlength, fun _ hne => Memory.get_set_other s.mem bytes hne, rfl⟩

/-- Settles O51, by what each of the three reads records. -/
theorem hostReadsHaveNoSideEffect : Obligations.HostReadsHaveNoSideEffect := by
  unfold Obligations.HostReadsHaveNoSideEffect
  intro s rest
  refine ⟨?register, ⟨rfl, rfl, rfl, rfl, rfl, rfl, rfl, rfl, rfl, rfl, rfl⟩, ?lengths, ?buffer, ?byte⟩
  case register =>
    intro r value hs hread
    rw [← readReg_setScript s rest] at hread
    rw [step_cons hs, perform, hostRead_some hread]
    rfl
  case lengths =>
    intro hwf
    have hread := readReg_lengthRegister_of_wf hwf
    exact ⟨hread .bufIn, hread .bufVal, hread .bufOut, hread .bufXaddr⟩
  case buffer =>
    intro b hs
    rw [step_cons hs]
    rfl
  case byte =>
    intro b index value hs hbyte
    rw [step_cons hs, perform, hostReadByte_some (s := s.setScript rest) hbyte]
    rfl

end Sys2Proof.Machine
end

section
/-! SUPPORT. The bits of the message-type field: the source's way through booleans is the gather by shifts and masks,
the scatter places every bit, and the mask 0xFEEF singles out the four Binding types (30_encoding.md R62, R63, R67). -/

namespace Sys2Proof.Machine

/-- `unpackType`, through booleans, is the gather on the 16-bit field (30_encoding.md R62, R68). -/
theorem unpackType_eq_gatherType (layout : TypeLayout) (b0 b1 : Byte) :
    unpackType layout b0 b1 = gatherType layout (word16 b0 b1) := by
  cases layout
  all_goals
    simp only [unpackType, gatherType, TypeField.mk.injEq]
    refine ⟨?_, ?_, ?_⟩
    all_goals
      apply BitVec.eq_of_getLsbD_eq
      intro i hi
      rw [pickBits_getLsbD]
      interval_cases i <;> simp [classIndices, methodIndices, bytesToBits, byteBits, word16_getElem]

/-- The gather under RFC, as slices of the field (30_encoding.md R62). The bits of a concatenation are rewritten before
its width is known to be a literal. -/
theorem gatherType_rfc_eq_slices (w : Word16) :
    gatherType .rfc w =
      { reserved := w.extractLsb' 14 2
        cls := w.extractLsb' 8 1 ++ w.extractLsb' 4 1
        method := w.extractLsb' 9 5 ++ w.extractLsb' 5 3 ++ w.extractLsb' 0 4 } := by
  simp only [gatherType, TypeField.mk.injEq, true_and]
  constructor
  · apply BitVec.eq_of_getLsbD_eq
    intro i hi
    refine .trans ?_ BitVec.getLsbD_append.symm
    interval_cases i <;> simp
  · apply BitVec.eq_of_getLsbD_eq
    intro i hi
    refine .trans ?_ BitVec.getLsbD_append.symm
    simp only [BitVec.getLsbD_append]
    interval_cases i <;> simp

/-- Settles O36: both clauses through the gather. -/
theorem unpackTypeIsTheGather : Obligations.UnpackTypeIsTheGather := by
  unfold Obligations.UnpackTypeIsTheGather
  refine ⟨fun b0 b1 => ?_, unpackType_eq_gatherType⟩
  rw [unpackType_eq_gatherType, gatherType_rfc_eq_slices]

/-- Settles O38, bit by bit. -/
theorem scatterPlacesEveryBit : Obligations.ScatterPlacesEveryBit := by
  unfold Obligations.ScatterPlacesEveryBit
  intro cls method
  apply BitVec.eq_of_getLsbD_eq
  intro i hi
  refine .trans ?_ BitVec.getLsbD_append.symm
  simp only [BitVec.getLsbD_append]
  interval_cases i <;> simp [scatterType]

/-- The four Binding types are the fields that the mask 0xFEEF takes to 0x0001 (30_encoding.md R67). -/
theorem mask_eq_one_iff (w : Word16) :
    w &&& 0xFEEF#16 = 0x0001#16 ↔ ∃ cls, scatterType .rfc cls methodBinding = w := by
  constructor
  · intro h
    refine ⟨(gatherType .rfc w).cls, ?_⟩
    apply BitVec.eq_of_getLsbD_eq
    intro i hi
    have hbit := congrArg (·.getLsbD i) h
    simp only [BitVec.getLsbD_and] at hbit
    interval_cases i <;> simp_all [scatterType, gatherType, methodBinding]
  · rintro ⟨cls, rfl⟩
    revert cls
    decide

/-- Under either layout a field with reserved bits zero is gathered to exactly the class and method it is scattered
from (42_header.md R143). -/
theorem gatherType_eq_iff {layout : TypeLayout} {w : Word16} {cls : ClassCode} {method : MethodCode} :
    gatherType layout w = { reserved := 0#2, cls := cls, method := method } ↔ scatterType layout cls method = w :=
  ⟨scatterType_gatherType, fun h => h ▸ gatherType_scatterType layout cls method⟩

end Sys2Proof.Machine
end

section
/-! SUPPORT. The three decoders: what each answers on a word of its format, and for the row it picks its encoding, its
format and its well-formedness (30_encoding.md R84). Every well-formed instruction is picked by some word. -/

namespace Sys2Proof.Machine

/-! ### The row a decoder picks -/

/-- The row of a command word has that word, is of format CMD8 and is well-formed (30_encoding.md R79, R80). -/
theorem commandOf_spec (c : Config) (op : Byte) :
    encodeWith c (commandOf op) = [op] ∧ (commandOf op).format = .cmd8 ∧ (commandOf op).wfIn c = true := by
  unfold commandOf
  split_ifs with h1 h2 h3 h4 h5 h6
  case neg =>
    refine ⟨rfl, rfl, ?_⟩
    simp only [Instr.wfIn, Bool.or_eq_true, beq_iff_eq, decide_eq_true_eq]
    bv_omega
  all_goals exact ⟨by subst op; rfl, rfl, rfl⟩

/-- The row of a message-type field has the scatter of its class and method as its word, is of format MSGTYPE16 and is
well-formed (30_encoding.md R63, R67). -/
theorem messageTypeOf_spec (c : Config) (t : TypeField) :
    encodeWith c (messageTypeOf t) = fieldBytes (scatterType c.typeLayout t.cls t.method) ∧
      (messageTypeOf t).format = .msgType16 ∧ (messageTypeOf t).wfIn c = true := by
  obtain ⟨reserved, cls, method⟩ := t
  unfold messageTypeOf
  split_ifs with hmethod
  · simp only at hmethod
    subst hmethod
    have hcls : cls = 0b00#2 ∨ cls = 0b01#2 ∨ cls = 0b10#2 ∨ cls = 0b11#2 := by
      revert cls
      decide
    rcases hcls with rfl | rfl | rfl | rfl <;> exact ⟨rfl, rfl, rfl⟩
  · exact ⟨rfl, rfl, by simpa [Instr.wfIn] using hmethod⟩

/-- The ids below 8 are the eight ids of the names (10_state.md R19). -/
theorem nameId_lt_eight_cases {name : NameId} (h : name.toNat < 8) :
    name = 0#4 ∨ name = 1#4 ∨ name = 2#4 ∨ name = 3#4 ∨ name = 4#4 ∨ name = 5#4 ∨ name = 6#4 ∨ name = 7#4 := by
  revert name
  decide

/-- The row of a name id has the name's code as its word, is of format ATTRTYPE16 and is well-formed
(30_encoding.md R75). -/
theorem nameRow_spec (c : Config) {name : NameId} {i : Instr} (h : nameRow name = some i) :
    encodeWith c i = fieldBytes (rowCode c name) ∧ i.format = .attrType16 ∧ i.wfIn c = true := by
  have hname : name.toNat < 8 := (List.getElem?_eq_some_iff.mp h).1
  rcases nameId_lt_eight_cases hname with rfl | rfl | rfl | rfl | rfl | rfl | rfl | rfl <;>
    (cases h; exact ⟨rfl, rfl, rfl⟩)

/-- Each of the eight names has a row. -/
theorem exists_nameRow {name : NameId} (h : name.toNat ≤ 7) : ∃ i, nameRow name = some i :=
  ⟨_, List.getElem?_eq_getElem (Nat.lt_succ_of_le h)⟩

/-- In an admissible registry the two lookups undo each other (41_attribute.md R112). -/
theorem codeForName_eq_some_iff_nameForCode {r : List RegistryRow} (h : registryAdmissible r = true) {code : Word16}
    {name : NameId} : codeForName r name = some code ↔ nameForCode r code = some name := by
  obtain ⟨-, hcodes, -⟩ := registryAdmissible_iff.mp h
  rw [codeForName_eq_some (registryAdmissible_names_nodup h), nameForCode_eq_some hcodes]

/-- The code of a name the registry holds. -/
theorem rowCode_of_some {c : Config} {name : NameId} {code : Word16} (h : codeForName c.registry name = some code) :
    rowCode c name = code := by
  rw [rowCode, h, Option.getD_some]

/-- In an admissible registry each of the eight names is found at its row's code (41_attribute.md R112). -/
theorem nameForCode_rowCode {c : Config} (h : registryAdmissible c.registry = true) {name : NameId}
    (hname : name.toNat ≤ 7) : nameForCode c.registry (rowCode c name) = some name := by
  have hmem : name ∈ c.registry.map (·.name) := by
    rw [(registryAdmissible_iff.mp h).1]
    revert name
    decide
  obtain ⟨code, hcode⟩ : ∃ code, codeForName c.registry name = some code :=
    Option.ne_none_iff_exists'.mp fun hnone => codeForName_eq_none.mp hnone hmem
  rw [rowCode_of_some hcode]
  exact (codeForName_eq_some_iff_nameForCode h).mp hcode

/-- A code the registry does not hold has the generic row. -/
theorem attributeTypeOf_of_none {c : Config} {code : Word16} (h : nameForCode c.registry code = none) :
    attributeTypeOf c code = .unknown code := by
  rw [attributeTypeOf, h, Option.bind_none]

/-- A code of the registry has the row of its name. -/
theorem attributeTypeOf_of_some {c : Config} {code : Word16} {name : NameId} {i : Instr}
    (h : nameForCode c.registry code = some name) (hi : nameRow name = some i) : attributeTypeOf c code = i := by
  rw [attributeTypeOf, h, Option.bind_some, hi]

/-- The row of an attribute type code has that code as its word, is of format ATTRTYPE16 and is well-formed
(30_encoding.md R75, R76). -/
theorem attributeTypeOf_spec {c : Config} (h : registryAdmissible c.registry = true) (code : Word16) :
    encodeWith c (attributeTypeOf c code) = fieldBytes code ∧ (attributeTypeOf c code).format = .attrType16 ∧
      (attributeTypeOf c code).wfIn c = true := by
  cases hn : nameForCode c.registry code with
  | none =>
    rw [attributeTypeOf_of_none hn]
    exact ⟨rfl, rfl, Option.isNone_iff_eq_none.mpr hn⟩
  | some name =>
    obtain ⟨i, hi⟩ := exists_nameRow (nameForCode_toNat_le h hn)
    rw [attributeTypeOf_of_some hn hi,
      ← rowCode_of_some ((codeForName_eq_some_iff_nameForCode h).mpr hn)]
    exact nameRow_spec c hi

/-! ### Every well-formed instruction is the row of some word -/

theorem exists_commandOf {c : Config} {i : Instr} (hf : i.format = .cmd8) (hwf : i.wfIn c = true) :
    ∃ op, commandOf op = i := by
  cases i <;> cases hf
  case parsehdr => exact ⟨0x01#8, rfl⟩
  case genhdr => exact ⟨0x02#8, rfl⟩
  case parseattr => exact ⟨0x03#8, rfl⟩
  case genattr => exact ⟨0x04#8, rfl⟩
  case genxma => exact ⟨0x05#8, rfl⟩
  case rmpad => exact ⟨0x06#8, rfl⟩
  case illegal op =>
    refine ⟨op, ?_⟩
    simp only [Instr.wfIn, Bool.or_eq_true, beq_iff_eq, decide_eq_true_eq] at hwf
    unfold commandOf
    split_ifs with h1 h2 h3 h4 h5 h6
    case neg => rfl
    all_goals
      subst op
      exact absurd hwf (by decide)

theorem exists_messageTypeOf {c : Config} {i : Instr} (hf : i.format = .msgType16) (hwf : i.wfIn c = true) :
    ∃ cls method, messageTypeOf { reserved := 0#2, cls := cls, method := method } = i := by
  cases i <;> cases hf
  case bindingRequest => exact ⟨0b00#2, methodBinding, rfl⟩
  case bindingIndication => exact ⟨0b01#2, methodBinding, rfl⟩
  case bindingSuccess => exact ⟨0b10#2, methodBinding, rfl⟩
  case bindingError => exact ⟨0b11#2, methodBinding, rfl⟩
  case msgtype cls method =>
    have hmethod : method ≠ methodBinding := by simpa [Instr.wfIn] using hwf
    exact ⟨cls, method, if_neg hmethod⟩

/-- The code of a name's row has that row. -/
theorem attributeTypeOf_rowCode {c : Config} (h : registryAdmissible c.registry = true) {name : NameId} {i : Instr}
    (hi : nameRow name = some i) : attributeTypeOf c (rowCode c name) = i := by
  have hname : name.toNat < 8 := (List.getElem?_eq_some_iff.mp hi).1
  exact attributeTypeOf_of_some (nameForCode_rowCode h (Nat.le_of_lt_succ hname)) hi

theorem exists_attributeTypeOf {c : Config} (h : registryAdmissible c.registry = true) {i : Instr}
    (hf : i.format = .attrType16) (hwf : i.wfIn c = true) : ∃ code, attributeTypeOf c code = i := by
  cases i <;> cases hf
  case mappedAddress => exact ⟨_, attributeTypeOf_rowCode h (name := 0#4) rfl⟩
  case username => exact ⟨_, attributeTypeOf_rowCode h (name := 1#4) rfl⟩
  case messageIntegrity => exact ⟨_, attributeTypeOf_rowCode h (name := 2#4) rfl⟩
  case errorCode => exact ⟨_, attributeTypeOf_rowCode h (name := 3#4) rfl⟩
  case unknownAttributes => exact ⟨_, attributeTypeOf_rowCode h (name := 4#4) rfl⟩
  case realm => exact ⟨_, attributeTypeOf_rowCode h (name := 5#4) rfl⟩
  case nonce => exact ⟨_, attributeTypeOf_rowCode h (name := 6#4) rfl⟩
  case xorMappedAddress => exact ⟨_, attributeTypeOf_rowCode h (name := 7#4) rfl⟩
  case unknown code => exact ⟨code, attributeTypeOf_of_none (Option.isNone_iff_eq_none.mp hwf)⟩

/-! ### What a decoder answers -/

/-- The header decoder on a message-type field. -/
theorem decodeWith_msgType16 (c : Config) (w : Word16) (rest : List Byte) :
    decodeWith c .msgType16 (fieldBytes w ++ rest) =
      if (gatherType c.typeLayout w).reserved = 0#2 then .ok (messageTypeOf (gatherType c.typeLayout w), rest)
      else .error .reservedBits := by
  rw [fieldBytes_eq]
  simp only [List.cons_append, List.nil_append, decodeWith, unpackType_eq_gatherType, word16_halves]

/-- The attribute decoder on a type code. -/
theorem decodeWith_attrType16 (c : Config) (code : Word16) (rest : List Byte) :
    decodeWith c .attrType16 (fieldBytes code ++ rest) = .ok (attributeTypeOf c code, rest) := by
  rw [fieldBytes_eq]
  simp only [List.cons_append, List.nil_append, decodeWith, word16_halves]

/-- A decoder reads an instruction from exactly the words of its format whose row the instruction is; a message-type
field is the scatter of its class and method (30_encoding.md R84). -/
theorem decodeWith_eq_ok_iff {c : Config} {f : Format} {bytes rest : List Byte} {i : Instr} :
    decodeWith c f bytes = .ok (i, rest) ↔
      (∃ op, f = .cmd8 ∧ bytes = [op] ++ rest ∧ commandOf op = i) ∨
      (∃ cls method, f = .msgType16 ∧ bytes = fieldBytes (scatterType c.typeLayout cls method) ++ rest ∧
        messageTypeOf { reserved := 0#2, cls := cls, method := method } = i) ∨
      (∃ code, f = .attrType16 ∧ bytes = fieldBytes code ++ rest ∧ attributeTypeOf c code = i) := by
  constructor
  · intro h
    match f, bytes, h with
    | .cmd8, op :: _, h =>
      cases h
      exact .inl ⟨op, rfl, rfl, rfl⟩
    | .msgType16, b0 :: b1 :: tail, h =>
      have hword : b0 :: b1 :: tail = fieldBytes (word16 b0 b1) ++ tail := by rw [fieldBytes_word16]; rfl
      rw [hword, decodeWith_msgType16] at h
      split_ifs at h with hreserved
      cases h
      refine .inr (.inl ⟨(gatherType c.typeLayout (word16 b0 b1)).cls, (gatherType c.typeLayout (word16 b0 b1)).method,
        rfl, ?_, ?_⟩)
      · rw [gatherType_eq_iff.mp (by rw [← hreserved]), hword]
      · rw [← hreserved]
    | .attrType16, b0 :: b1 :: tail, h =>
      cases h
      exact .inr (.inr ⟨word16 b0 b1, rfl, by rw [fieldBytes_word16]; rfl, rfl⟩)
  · rintro (⟨op, rfl, rfl, rfl⟩ | ⟨cls, method, rfl, rfl, rfl⟩ | ⟨code, rfl, rfl, rfl⟩)
    · rfl
    · rw [decodeWith_msgType16, gatherType_scatterType, if_pos rfl]
    · exact decodeWith_attrType16 c code rest

/-- Settles O31: a well-formed instruction is the row of a word, and that word is its encoding. -/
theorem decodeOfEncodeIsTheInstruction : Obligations.DecodeOfEncodeIsTheInstruction := by
  unfold Obligations.DecodeOfEncodeIsTheInstruction
  intro c i rest hc hwf
  rw [decodeWith_eq_ok_iff]
  cases hf : i.format with
  | cmd8 =>
    obtain ⟨op, rfl⟩ := exists_commandOf hf hwf
    exact .inl ⟨op, rfl, by rw [(commandOf_spec c op).1], rfl⟩
  | msgType16 =>
    obtain ⟨cls, method, rfl⟩ := exists_messageTypeOf hf hwf
    exact .inr (.inl ⟨cls, method, rfl, by rw [(messageTypeOf_spec c _).1], rfl⟩)
  | attrType16 =>
    obtain ⟨code, rfl⟩ := exists_attributeTypeOf hc hf hwf
    exact .inr (.inr ⟨code, rfl, by rw [(attributeTypeOf_spec hc code).1], rfl⟩)

/-- Settles O32: the row a decoder picks for a word has that word, the decoder's format, and is well-formed. -/
theorem encodeOfDecodeIsTheWord : Obligations.EncodeOfDecodeIsTheWord := by
  unfold Obligations.EncodeOfDecodeIsTheWord
  intro c f bytes i rest hc h
  rcases decodeWith_eq_ok_iff.mp h with ⟨op, rfl, rfl, rfl⟩ | ⟨cls, method, rfl, rfl, rfl⟩ | ⟨code, rfl, rfl, rfl⟩
  · obtain ⟨hword, hformat, hwf⟩ := commandOf_spec c op
    exact ⟨by rw [hword], hformat, hwf⟩
  · obtain ⟨hword, hformat, hwf⟩ := messageTypeOf_spec c { reserved := 0#2, cls := cls, method := method }
    exact ⟨by rw [hword], hformat, hwf⟩
  · obtain ⟨hword, hformat, hwf⟩ := attributeTypeOf_spec hc code
    exact ⟨by rw [hword], hformat, hwf⟩

/-- The four Binding rows are the rows of the method Binding (30_encoding.md R67). -/
theorem messageTypeOf_mem_bindingRows_iff (t : TypeField) :
    messageTypeOf t ∈ [Instr.bindingRequest, .bindingIndication, .bindingSuccess, .bindingError] ↔
      t.method = methodBinding := by
  unfold messageTypeOf
  split_ifs with hmethod
  · unfold bindingRow
    split_ifs <;> simp [hmethod]
  · simp [hmethod]

/-- Two bytes are a 16-bit field on the wire exactly when it is their word (20_memory.md R41). -/
theorem eq_fieldBytes_iff {b0 b1 : Byte} {w : Word16} : [b0, b1] = fieldBytes w ↔ w = word16 b0 b1 := by
  constructor
  · intro h
    rw [fieldBytes_eq] at h
    injection h with h0 h1
    injection h1 with h1
    rw [h0, h1, word16_halves]
  · rintro rfl
    rw [fieldBytes_word16]

/-- Settles O35: the words with a Binding row are the scatters of the method Binding, which are the masked match. -/
theorem acceptedMessageTypesAreTheMaskedMatch : Obligations.AcceptedMessageTypesAreTheMaskedMatch := by
  unfold Obligations.AcceptedMessageTypesAreTheMaskedMatch
  intro b0 b1
  rw [mask_eq_one_iff]
  constructor
  · rintro ⟨i, hi, hdecode⟩
    rcases decodeWith_eq_ok_iff.mp hdecode with ⟨_, hf, -⟩ | ⟨cls, method, -, hbytes, rfl⟩ | ⟨_, hf, -⟩
    · cases hf
    · obtain rfl : method = methodBinding := (messageTypeOf_mem_bindingRows_iff _).mp hi
      rw [List.append_nil] at hbytes
      exact ⟨cls, eq_fieldBytes_iff.mp hbytes⟩
    · cases hf
  · rintro ⟨cls, hcls⟩
    have hbytes : [b0, b1] = fieldBytes (scatterType .rfc cls methodBinding) ++ [] := by
      rw [List.append_nil, eq_fieldBytes_iff, hcls]
    exact ⟨_, (messageTypeOf_mem_bindingRows_iff _).mpr rfl,
      decodeWith_eq_ok_iff.mpr (.inr (.inl ⟨cls, methodBinding, rfl, hbytes, rfl⟩))⟩

/-- The reserved bits are the two top bits of the first byte (30_encoding.md R66). -/
theorem unpackType_reserved (layout : TypeLayout) (b0 b1 : Byte) :
    (unpackType layout b0 b1).reserved = b0.extractLsb' 6 2 := by
  have hgather : (unpackType layout b0 b1).reserved = (word16 b0 b1).extractLsb' 14 2 := by
    rw [unpackType_eq_gatherType]
    cases layout <;> rfl
  rw [hgather]
  apply BitVec.eq_of_getLsbD_eq
  intro i hi
  interval_cases i <;> simp [word16_getElem]

/-- What the header decoder answers on two bytes and what follows them. -/
theorem decodeWith_msgType16_cons (c : Config) (b0 b1 : Byte) (rest : List Byte) :
    decodeWith c .msgType16 (b0 :: b1 :: rest) =
      if b0.extractLsb' 6 2 = 0#2 then .ok (messageTypeOf (unpackType c.typeLayout b0 b1), rest)
      else .error .reservedBits := by
  simp only [decodeWith, unpackType_reserved]

/-- Settles O33: by format, and by how many bytes of the word there are. -/
theorem decodersRefuseByName : Obligations.DecodersRefuseByName := by
  unfold Obligations.DecodersRefuseByName
  intro c f bytes
  refine ⟨?short, ?reserved, ?others⟩
  case short =>
    match f, bytes with
    | .cmd8, [] | .msgType16, [] | .msgType16, [_] | .attrType16, [] | .attrType16, [_] =>
      simp [decodeWith, formatBytes]
    | .cmd8, _ :: _ | .attrType16, _ :: _ :: _ => simp [decodeWith, formatBytes]
    | .msgType16, b0 :: b1 :: rest =>
      rw [decodeWith_msgType16_cons]
      split_ifs <;> simp [formatBytes]
  case reserved =>
    rintro b0 b1 rest rfl rfl
    rw [decodeWith_msgType16_cons]
    split_ifs with hreserved <;> simp [hreserved]
  case others =>
    intro h
    cases f with
    | msgType16 => rfl
    | cmd8 => cases bytes <;> cases h
    | attrType16 => rcases bytes with _ | ⟨_, _ | ⟨_, _⟩⟩ <;> cases h

/-- Settles O34: the decoders run on seven words. -/
theorem specimenWordsDecode : Obligations.SpecimenWordsDecode := by
  unfold Obligations.SpecimenWordsDecode
  exact ⟨rfl, rfl, rfl, rfl, rfl, rfl, rfl⟩

end Sys2Proof.Machine
end

section
/-! SUPPORT. The rows of formats MSGTYPE16 and ATTRTYPE16 as instructions: each is PARSEHDR or PARSEATTR on a window
with its word in front (30_encoding.md R84; log entries 8 and 9). -/

namespace Sys2Proof.Machine

/-! ### A row and the command that reads it -/

/-- The word of an instruction has as many bytes as its format (30_encoding.md R84). -/
theorem encode_length (i : Instr) : (encode i).length = formatBytes i.format := by
  cases i <;> rfl

/-- Putting a 16-bit row's word in front of a window that begins with it gives the window itself. -/
theorem encode_append_drop_two {i : Instr} (hi : formatBytes i.format = 2) {w rest : List Byte}
    (hw : w = encode i ++ rest) : encode i ++ w.drop 2 = w := by
  rw [hw, List.drop_left' ((encode_length i).trans hi)]

/-- Where IN begins with a message-type row's word, the row is PARSEHDR. -/
theorem exec_msgType16_eq_parsehdr {i : Instr} {s : State} (hi : i.format = .msgType16) {rest : List Byte}
    (hin : s.mem.bufIn = encode i ++ rest) : exec i s = exec .parsehdr s := by
  rw [exec_msgType16 hi, encode_append_drop_two (congrArg formatBytes hi) hin]
  rfl

/-- Where IN begins with an attribute-type row's word, the row is PARSEATTR. -/
theorem exec_attrType16_eq_parseattr {i : Instr} {s : State} (hi : i.format = .attrType16) {rest : List Byte}
    (hin : s.mem.bufIn = encode i ++ rest) : exec i s = exec .parseattr s := by
  rw [exec_attrType16 hi, encode_append_drop_two (congrArg formatBytes hi) hin]
  rfl

/-- Settles O15: PARSEHDR on a given window neither reads nor writes IN. -/
theorem messageTypeRowsActAsParsehdr : Obligations.MessageTypeRowsActAsParsehdr := by
  unfold Obligations.MessageTypeRowsActAsParsehdr
  intro i s hi
  refine ⟨fun rest => exec_msgType16_eq_parsehdr hi, fun t ht => ?_⟩
  rw [exec_msgType16 hi]
  exact parsehdrWith_setBuffer_bufIn ht s.mem.bufIn

/-- Settles O16: PARSEATTR on a given window neither reads nor writes IN. -/
theorem attributeTypeRowsActAsParseattr : Obligations.AttributeTypeRowsActAsParseattr := by
  unfold Obligations.AttributeTypeRowsActAsParseattr
  intro i s hi
  refine ⟨fun rest => exec_attrType16_eq_parseattr hi, fun t ht => ?_⟩
  rw [exec_attrType16 hi]
  exact parseattrWith_setBuffer_bufIn ht s.mem.bufIn

/-! ### Rows on a header window -/

/-- PARSEHDR takes a header window whose reserved bits are zero and whose method is Binding (42_header.md R146). -/
theorem parsehdrWith_headerWindow_binding {c : Config} {b0 b1 : Byte} {cls : ClassCode}
    (h : unpackType c.typeLayout b0 b1 = { reserved := 0#2, cls := cls, method := methodBinding })
    (l0 l1 : Byte) (t : Fin 12 → Byte) (rest : List Byte) (s : State) :
    parsehdrWith c (headerWindow b0 b1 l0 l1 t rest) s = .next (headerTaken s cls l0 l1 t) := by
  have hparse := parseHeader_headerWindow c b0 b1 l0 l1 t rest
  rw [h, if_neg (by simp), if_neg (by simp)] at hparse
  obtain ⟨h0, h1, h2⟩ := field_headerWindow b0 b1 l0 l1 t rest
  rw [parsehdrWith_ok s hparse, h0, h1, h2]
  rfl

/-- PARSEHDR refuses a header window whose reserved bits are zero and whose method is not Binding (42_header.md
R145). -/
theorem parsehdrWith_headerWindow_otherMethod {c : Config} {b0 b1 : Byte} {cls : ClassCode} {method : MethodCode}
    (h : unpackType c.typeLayout b0 b1 = { reserved := 0#2, cls := cls, method := method })
    (hmethod : method ≠ methodBinding) (l0 l1 : Byte) (t : Fin 12 → Byte) (rest : List Byte) (s : State) :
    parsehdrWith c (headerWindow b0 b1 l0 l1 t rest) s = .next (errorState s 0x21#8) := by
  have hparse := parseHeader_headerWindow c b0 b1 l0 l1 t rest
  rw [h, if_neg (by simp), if_pos hmethod] at hparse
  exact parsehdrWith_error s hparse

/-- A header window with a message-type word put in front is the header window of that word. -/
theorem wordWindow_headerWindow (w : Word16) {s : State} {b0 b1 l0 l1 : Byte} {t : Fin 12 → Byte} {rest : List Byte}
    (hin : s.mem.bufIn = headerWindow b0 b1 l0 l1 t rest) :
    wordWindow w s = headerWindow (w.extractLsb' 8 8) (w.extractLsb' 0 8) l0 l1 t rest := by
  rw [wordWindow, hin, fieldBytes_eq]
  rfl

/-- The bytes of a scattered field unpack to its class and method (42_header.md R143). -/
theorem unpackType_scatterType (layout : TypeLayout) (cls : ClassCode) (method : MethodCode) :
    unpackType layout ((scatterType layout cls method).extractLsb' 8 8)
      ((scatterType layout cls method).extractLsb' 0 8) = { reserved := 0#2, cls := cls, method := method } := by
  rw [unpackType_eq_gatherType, word16_halves, gatherType_scatterType]

section
variable {s : State} {b0 b1 l0 l1 : Byte} {t : Fin 12 → Byte} {rest : List Byte}

/-- A message-type word of the method Binding takes the header with its class. -/
theorem headerWord_binding (cls : ClassCode) (hin : s.mem.bufIn = headerWindow b0 b1 l0 l1 t rest) :
    headerWord cls methodBinding s = .next (headerTaken s cls l0 l1 t) := by
  rw [headerWord, wordWindow_headerWindow _ hin]
  exact parsehdrWith_headerWindow_binding (unpackType_scatterType _ cls methodBinding) l0 l1 t rest s

/-- A message-type word of another method raises `E_UNSUP_METHOD`. -/
theorem headerWord_otherMethod (cls : ClassCode) {method : MethodCode} (hmethod : method ≠ methodBinding)
    (hin : s.mem.bufIn = headerWindow b0 b1 l0 l1 t rest) :
    headerWord cls method s = .next (errorState s 0x21#8) := by
  rw [headerWord, wordWindow_headerWindow _ hin]
  exact parsehdrWith_headerWindow_otherMethod (unpackType_scatterType _ cls method) hmethod l0 l1 t rest s

end

/-- Settles O11: each row is the message-type word of its class and the method Binding. -/
theorem bindingRowsTakeTheHeader : Obligations.BindingRowsTakeTheHeader := by
  unfold Obligations.BindingRowsTakeTheHeader
  intro s b0 b1 l0 l1 t rest hin
  exact ⟨headerWord_binding _ hin, headerWord_binding _ hin, headerWord_binding _ hin, headerWord_binding _ hin⟩

/-- Settles O12: the row is the message-type word of its class and method. -/
theorem genericMessageTypeRaisesUnlessBinding : Obligations.GenericMessageTypeRaisesUnlessBinding := by
  unfold Obligations.GenericMessageTypeRaisesUnlessBinding
  intro s b0 b1 l0 l1 t rest cls method hin
  refine ⟨fun hmethod => headerWord_otherMethod cls hmethod hin, ?_⟩
  rintro rfl
  exact headerWord_binding cls hin

/-! ### Rows on an attribute window -/

/-- PARSEATTR takes an attribute window that holds its value and whose code the registry names (41_attribute.md
R114). -/
theorem parseattrWith_attributeWindow_known {c : Config} {c0 c1 l0 l1 : Byte} {name : NameId} {value : List Byte}
    (hname : nameForCode c.registry (word16 c0 c1) = some name) (hvalue : value.length = (word16 l0 l1).toNat)
    (hfit : value.length ≤ c.valCap) (rest : List Byte) (s : State) :
    parseattrWith c (attributeWindow c0 c1 l0 l1 (value ++ rest)) s = .next (attributeTaken s name l0 l1 value) := by
  have hlong : ¬ (value ++ rest).length < (word16 l0 l1).toNat := by rw [List.length_append]; omega
  have hparse := parseAttribute_attributeWindow c c0 c1 l0 l1 (value ++ rest)
  rw [if_neg hlong, hname, List.take_left' hvalue] at hparse
  rw [parseattrWith_ok s hparse, succeedWriting_fits _ hfit]
  rfl

/-- PARSEATTR refuses an attribute window that holds its value and whose code the registry lacks (41_attribute.md
R114). -/
theorem parseattrWith_attributeWindow_unknown {c : Config} {c0 c1 l0 l1 : Byte} {rest : List Byte}
    (hname : nameForCode c.registry (word16 c0 c1) = none) (hlong : (word16 l0 l1).toNat ≤ rest.length) (s : State) :
    parseattrWith c (attributeWindow c0 c1 l0 l1 rest) s = .next (errorState s 0x22#8) := by
  have hparse := parseAttribute_attributeWindow c c0 c1 l0 l1 rest
  rw [if_neg hlong.not_gt, hname] at hparse
  exact parseattrWith_error s hparse

/-- An attribute window with a type code put in front is the attribute window of that code. -/
theorem wordWindow_attributeWindow (w : Word16) {s : State} {c0 c1 l0 l1 : Byte} {rest : List Byte}
    (hin : s.mem.bufIn = attributeWindow c0 c1 l0 l1 rest) :
    wordWindow w s = attributeWindow (w.extractLsb' 8 8) (w.extractLsb' 0 8) l0 l1 rest := by
  rw [wordWindow, hin, fieldBytes_eq]
  rfl

/-- The code of a name's row takes the attribute with the name's id. -/
theorem attributeWord_rowCode {s : State} {c0 c1 l0 l1 : Byte} {value rest : List Byte} {name : NameId}
    (hname : name.toNat ≤ 7) (hin : s.mem.bufIn = attributeWindow c0 c1 l0 l1 (value ++ rest))
    (hvalue : value.length = (word16 l0 l1).toNat) :
    attributeWord (rowCode unitConfig name) s = .next (attributeTaken s name l0 l1 value) := by
  have hfit : value.length ≤ unitConfig.valCap := hvalue ▸ Nat.le_of_lt_succ (word16 l0 l1).isLt
  rw [attributeWord, wordWindow_attributeWindow _ hin]
  refine parseattrWith_attributeWindow_known ?_ hvalue hfit rest s
  rw [word16_halves]
  exact nameForCode_rowCode unitConfig_admissible hname

/-- Settles O13: each row is the type code of its name. -/
theorem nameRowsTakeTheAttribute : Obligations.NameRowsTakeTheAttribute := by
  unfold Obligations.NameRowsTakeTheAttribute
  intro s c0 c1 l0 l1 value rest hin hvalue
  have row (name : NameId) (hname : name.toNat ≤ 7) := attributeWord_rowCode hname hin hvalue
  exact ⟨row 0#4 (by decide), row 1#4 (by decide), row 2#4 (by decide), row 3#4 (by decide), row 4#4 (by decide),
    row 5#4 (by decide), row 6#4 (by decide), row 7#4 (by decide)⟩

/-- Settles O14: the row's code has no name in the registry. -/
theorem unknownCodeRaises : Obligations.UnknownCodeRaises := by
  unfold Obligations.UnknownCodeRaises
  intro s code c0 c1 l0 l1 rest hwf hin hlong
  have hrow : exec (.unknown code) s = parseattrWith unitConfig (wordWindow code s) s := rfl
  rw [hrow, wordWindow_attributeWindow _ hin]
  refine parseattrWith_attributeWindow_unknown ?_ hlong s
  rw [word16_halves]
  exact Option.isNone_iff_eq_none.mp hwf

end Sys2Proof.Machine
end

section
/-! SUPPORT. Placing a table word for the next step, and the step that reads it (log entries 7 and 10); `CHK`
(30_encoding.md R81). -/

namespace Sys2Proof.Machine

/-- The numbering of the table gives a 16-bit word one of the two 16-bit formats (log entry 7). -/
theorem tableFormat16_eq (w : Word16) : tableFormat16 w = .msgType16 ∨ tableFormat16 w = .attrType16 := by
  unfold tableFormat16
  split <;> simp

/-- What `decodeTableWord` reads: a command word, or a 16-bit word in the format the table's numbering gives it. -/
theorem decodeTableWord_eq_some {nbits w : Nat} {i : Instr} (h : decodeTableWord nbits w = some i) :
    (nbits = 8 ∧ commandOf (BitVec.ofNat 8 w) = i) ∨
    (nbits = 16 ∧ ∃ rest, decode (tableFormat16 (BitVec.ofNat 16 w)) (fieldBytes (BitVec.ofNat 16 w)) =
      .ok (i, rest)) := by
  unfold decodeTableWord at h
  split_ifs at h with h8 h16
  · exact .inl ⟨h8, Option.some.inj h⟩
  · refine .inr ⟨h16, ?_⟩
    simp only at h
    split at h
    · next j rest hdecode =>
      cases h
      exact ⟨rest, hdecode⟩
    · cases h

/-- The word that a 16-bit decoder reads is the whole word of the instruction. -/
theorem encode_of_decode_fieldBytes {f : Format} {word : Word16} {i : Instr} {rest : List Byte}
    (hf : f = .msgType16 ∨ f = .attrType16) (h : decode f (fieldBytes word) = .ok (i, rest)) :
    encode i = fieldBytes word ∧ i.format = f := by
  obtain ⟨hbytes, hformat, -⟩ := encodeOfDecodeIsTheWord unitConfig f _ i rest unitConfig_admissible h
  have hlength : (encode i).length = (fieldBytes word).length := by
    rw [encode_length, hformat, fieldBytes_length]
    rcases hf with rfl | rfl <;> rfl
  have hrest : encode i ++ rest = fieldBytes word ++ [] := by rw [List.append_nil, hbytes]; rfl
  exact ⟨List.append_inj_left hrest hlength, hformat⟩

/-- The window placed for a message-type word begins with it. -/
theorem windowForMessageType_eq (word : Word16) (w : List Byte) :
    ∃ rest, windowForMessageType word w = fieldBytes word ++ rest := by
  unfold windowForMessageType
  simp only [List.append_assoc]
  exact ⟨_, rfl⟩

/-- The window placed for an attribute-type word begins with it. -/
theorem windowForAttributeType_eq (word : Word16) (w : List Byte) :
    ∃ rest, windowForAttributeType word w = fieldBytes word ++ rest := by
  unfold windowForAttributeType
  split_ifs <;> exact ⟨_, rfl⟩

/-- A message-type word is placed at the front of IN, PARSEHDR as the next CMD write (log entry 10). -/
theorem withFetchWord_msgType16 (s : State) {w : Nat} (h : tableFormat16 (BitVec.ofNat 16 w) = .msgType16) :
    (s.withFetchWord 16 w).script = .cmd 0x01#8 :: s.script ∧
      ∃ rest, (s.withFetchWord 16 w).mem.bufIn = fieldBytes (BitVec.ofNat 16 w) ++ rest := by
  have hplaced : s.withFetchWord 16 w =
      (s.setBuffer .bufIn (windowForMessageType (BitVec.ofNat 16 w) s.mem.bufIn)).setScript
        (.cmd 0x01#8 :: s.script) := by
    simp [State.withFetchWord, placeWord, h]
  rw [hplaced]
  exact ⟨rfl, windowForMessageType_eq (BitVec.ofNat 16 w) s.mem.bufIn⟩

/-- An attribute-type word is placed at the front of IN, PARSEATTR as the next CMD write (log entry 10). -/
theorem withFetchWord_attrType16 (s : State) {w : Nat} (h : tableFormat16 (BitVec.ofNat 16 w) = .attrType16) :
    (s.withFetchWord 16 w).script = .cmd 0x03#8 :: s.script ∧
      ∃ rest, (s.withFetchWord 16 w).mem.bufIn = fieldBytes (BitVec.ofNat 16 w) ++ rest := by
  have hplaced : s.withFetchWord 16 w =
      (s.setBuffer .bufIn (windowForAttributeType (BitVec.ofNat 16 w) s.mem.bufIn)).setScript
        (.cmd 0x03#8 :: s.script) := by
    simp [State.withFetchWord, placeWord, h]
  rw [hplaced]
  exact ⟨rfl, windowForAttributeType_eq (BitVec.ofNat 16 w) s.mem.bufIn⟩

/-- Settles O47: the next step is the CMD write placed, and the row is that command where IN begins with its word. -/
theorem stepRunsTheWordPlaced : Obligations.StepRunsTheWordPlaced := by
  unfold Obligations.StepRunsTheWordPlaced
  intro s nbits w i h
  rcases decodeTableWord_eq_some h with ⟨rfl, rfl⟩ | ⟨rfl, rest, hdecode⟩
  · exact step_cmd rfl
  · obtain ⟨hword, hformat⟩ := encode_of_decode_fieldBytes (tableFormat16_eq _) hdecode
    rcases tableFormat16_eq (BitVec.ofNat 16 w) with hf | hf
    · obtain ⟨hscript, tail, hin⟩ := withFetchWord_msgType16 s hf
      rw [← hword] at hin
      rw [step_cmd hscript]
      exact (exec_msgType16_eq_parsehdr (s := (s.withFetchWord 16 w).setScript s.script) (hformat.trans hf) hin).symm
    · obtain ⟨hscript, tail, hin⟩ := withFetchWord_attrType16 s hf
      rw [← hword] at hin
      rw [step_cmd hscript]
      exact (exec_attrType16_eq_parseattr (s := (s.withFetchWord 16 w).setScript s.script) (hformat.trans hf) hin).symm

/-- Settles O53, by what `CHK` does on either value of STATUS. -/
theorem checkEndsTheScriptOnAnError : Obligations.CheckEndsTheScriptOnAnError := by
  unfold Obligations.CheckEndsTheScriptOnAnError
  intro s rest hs
  have hstep := step_cons hs
  rw [perform, hostCheck_eq] at hstep
  exact ⟨_, hstep, fun hok => if_pos hok, fun herror => if_neg herror, rfl⟩

end Sys2Proof.Machine
end

section
/-! SUPPORT. The four conversion functions undo each other: a sequence is determined by its length and its number, and
the bits of a sequence write the number its bytes write (40_conversion.md R91 to R95). -/

namespace Sys2Proof.Machine

/-! ### Numbers and bytes -/

/-- Two sequences of one length that write one number are equal. -/
theorem bytesToNumber_inj {s s' : List Byte} (hlength : s.length = s'.length)
    (h : bytesToNumber s = bytesToNumber s') : s = s' := by
  induction s generalizing s' with
  | nil => exact (List.length_eq_zero_iff.mp hlength.symm).symm
  | cons b s ih =>
    obtain _ | ⟨b', s'⟩ := s'
    · cases hlength
    have hlength : s.length = s'.length := Nat.succ.inj hlength
    have hlt := bytesToNumber_lt s
    have hlt' := bytesToNumber_lt s'
    simp only [bytesToNumber, ← hlength] at h hlt'
    have hmod := congrArg (· % 256 ^ s.length) h
    simp only [Nat.mul_add_mod_of_lt hlt, Nat.mul_add_mod_of_lt hlt'] at hmod
    have hhead : b.toNat = b'.toNat :=
      Nat.eq_of_mul_eq_mul_right (Nat.pow_pos (by decide)) (Nat.add_right_cancel (hmod ▸ h))
    rw [BitVec.eq_of_toNat_eq hhead, ih hlength hmod]

/-- A sequence is the big-endian bytes of the number it writes. -/
@[simp] theorem bigEndian_bytesToNumber (s : List Byte) : bigEndian (bytesToNumber s) s.length = s :=
  bytesToNumber_inj (bigEndian_length _ _)
    ((bytesToNumber_bigEndian _ _).trans (Nat.mod_eq_of_lt (bytesToNumber_lt s)))

/-- Byte `i` of the big-endian bytes of a number (40_conversion.md R94). -/
theorem bigEndian_getElem? (v : Nat) {k i : Nat} (hi : i < k) :
    (bigEndian v k)[i]? = some (BitVec.ofNat 8 (v / 256 ^ (k - 1 - i))) := by
  induction k generalizing i with
  | zero => cases hi
  | succ k ih =>
    cases i with
    | zero => rfl
    | succ i =>
      rw [bigEndian, List.getElem?_cons_succ, ih (Nat.lt_of_succ_lt_succ hi)]
      congr 4
      omega

/-- The conversion fails exactly on a number that does not fit, and then with `E_WIDTH`. -/
theorem numberToBytes_eq_error_iff {v k : Nat} {e : Err} :
    numberToBytes v k = .error e ↔ 256 ^ k ≤ v ∧ e = .width := by
  unfold numberToBytes
  split <;> simp [eq_comm] <;> omega

/-- The conversion answers exactly on a number that fits, and then with its big-endian bytes. -/
theorem numberToBytes_eq_ok_iff {v k : Nat} {s : List Byte} :
    numberToBytes v k = .ok s ↔ v < 256 ^ k ∧ bigEndian v k = s := by
  unfold numberToBytes
  split <;> simp [*]

/-- Settles O40: an answer is the big-endian bytes of the number. -/
theorem numberToBytesGivesEachByteOrRefuses : Obligations.NumberToBytesGivesEachByteOrRefuses := by
  unfold Obligations.NumberToBytesGivesEachByteOrRefuses
  refine fun v k => ⟨by simp [numberToBytes_eq_error_iff], fun s h => ?_⟩
  obtain ⟨-, rfl⟩ := numberToBytes_eq_ok_iff.mp h
  refine ⟨bigEndian_length v k, fun i hi => ?_⟩
  rw [bigEndian_getElem? v hi, Option.some_inj]
  exact BitVec.eq_of_toNat_eq (Nat.mod_mod _ _).symm

/-! ### Bits -/

theorem bitsToNumber_append (a b : List Bool) :
    bitsToNumber (a ++ b) = bitsToNumber a * 2 ^ b.length + bitsToNumber b := by
  induction a with
  | nil => simp [bitsToNumber]
  | cons x a ih => simp [bitsToNumber, ih, pow_add]; ring

/-- The bits of a byte write the byte. -/
theorem bitsToNumber_byteBits (b : Byte) : bitsToNumber (byteBits b) = b.toNat := by
  apply Nat.eq_of_testBit_eq
  intro i
  rw [bitsToNumber_testBit, BitVec.testBit_toNat]
  obtain hi | hi := Nat.lt_or_ge i 8
  · interval_cases i <;> rfl
  · rw [BitVec.getLsbD_of_ge b i hi, List.getElem?_eq_none (by simpa [byteBits] using hi), Option.getD_none]

@[simp] theorem bytesToBits_length (s : List Byte) : (bytesToBits s).length = 8 * s.length := by
  induction s with
  | nil => rfl
  | cons b s ih => simp [bytesToBits, byteBits, ih]; omega

/-- The bits of a sequence write the number its bytes write (40_conversion.md R95). -/
theorem bitsToNumber_bytesToBits (s : List Byte) : bitsToNumber (bytesToBits s) = bytesToNumber s := by
  induction s with
  | nil => rfl
  | cons b s ih =>
    rw [bytesToBits, bitsToNumber_append, bitsToNumber_byteBits, ih, bytesToBits_length, pow_mul]
    rfl

/-- Equal bits have one length and write one number, which determine the sequence (40_conversion.md R95). -/
theorem bytesToBits_inj {s s' : List Byte} (h : bytesToBits s = bytesToBits s') : s = s' := by
  have hlength := congrArg List.length h
  have hnumber := congrArg bitsToNumber h
  simp only [bytesToBits_length] at hlength
  simp only [bitsToNumber_bytesToBits] at hnumber
  exact bytesToNumber_inj (by omega) hnumber

/-- Settles O39, relation by relation. -/
theorem conversionLaws : Obligations.ConversionLaws := by
  unfold Obligations.ConversionLaws
  refine ⟨fun s => ?_, fun v k hv => ?_, bitsToNumber_bytesToBits, fun s s' => bytesToBits_inj, bytesToBits_length,
    fun s => ?_, fun bits => ?_⟩
  · exact numberToBytes_eq_ok_iff.mpr ⟨bytesToNumber_lt s, bigEndian_bytesToNumber s⟩
  · exact ⟨bigEndian v k, numberToBytes_ok hv, bigEndian_length v k,
      (bytesToNumber_bigEndian v k).trans (Nat.mod_eq_of_lt hv)⟩
  · simp [bytesToNumber]
  · simp [bitsToNumber]

end Sys2Proof.Machine
end

section
/-! SUPPORT. Hexadecimal digits: the view of a transaction id reads back as its bytes' number, word by word
(40_conversion.md R98; 10_state.md R18). -/

namespace Sys2Proof.Machine

theorem hexValue_hexDigit {n : Nat} (h : n < 16) : hexValue (hexDigit n) = some n := by
  revert n
  decide

theorem hexNumber_append {a b : List Char} {m n : Nat} (ha : hexNumber a = some m) (hb : hexNumber b = some n) :
    hexNumber (a ++ b) = some (m * 16 ^ b.length + n) := by
  induction a generalizing m with
  | nil =>
    cases ha
    simpa using hb
  | cons c a ih =>
    simp only [hexNumber] at ha
    split at ha
    · next d m' hd hm' =>
      cases ha
      simp only [List.cons_append, hexNumber, hd, ih hm', List.length_append, pow_add]
      congr 1
      ring
    · cases ha

/-- The two digits of a byte read back as the byte. -/
theorem hexNumber_byteHex (b : Byte) : hexNumber (byteHex b) = some b.toNat := by
  have hb : b.toNat < 256 := b.isLt
  simp only [byteHex, hexNumber, hexValue_hexDigit (show b.toNat / 16 < 16 by omega),
    hexValue_hexDigit (show b.toNat % 16 < 16 by omega)]
  simp
  omega

theorem flatMap_byteHex_length (s : List Byte) : (s.flatMap byteHex).length = 2 * s.length := by
  induction s with
  | nil => rfl
  | cons b s ih => simp [byteHex, ih]; omega

/-- The digits of a sequence read back as the number its bytes write. -/
theorem hexNumber_flatMap_byteHex (s : List Byte) : hexNumber (s.flatMap byteHex) = some (bytesToNumber s) := by
  induction s with
  | nil => rfl
  | cons b s ih =>
    rw [List.flatMap_cons, hexNumber_append (hexNumber_byteHex b) ih, flatMap_byteHex_length, pow_mul]
    rfl

/-- Three runs of eight digits read as the words of the three numbers they write. -/
theorem txidWordsOfHex_append {x y z : List Char} {a b c : Nat} (hx : x.length = 8) (hy : y.length = 8)
    (hz : z.length = 8) (ha : hexNumber x = some a) (hb : hexNumber y = some b) (hc : hexNumber z = some c) :
    txidWordsOfHex (x ++ y ++ z) = some (BitVec.ofNat 32 a, BitVec.ofNat 32 b, BitVec.ofNat 32 c) := by
  have hxy : (x ++ y).length = 16 := by rw [List.length_append, hx, hy]
  have hlength : (x ++ y ++ z).length = 24 := by rw [List.length_append, hxy, hz]
  have hfirst : (x ++ y ++ z).take 8 = x := by rw [List.append_assoc, List.take_left' hx]
  have hsecond : ((x ++ y ++ z).drop 8).take 8 = y := by
    rw [List.append_assoc, List.drop_left' hx, List.take_left' hy]
  rw [txidWordsOfHex, if_pos hlength, hfirst, hsecond, List.drop_left' hxy, ha, hb, hc]

/-- The digits of three groups of four bytes read back as the groups' words. -/
theorem txidWordsOfHex_flatMap_byteHex {a b c : List Byte} (ha : a.length = 4) (hb : b.length = 4)
    (hc : c.length = 4) :
    txidWordsOfHex ((a ++ b ++ c).flatMap byteHex) =
      some (BitVec.ofNat 32 (bytesToNumber a), BitVec.ofNat 32 (bytesToNumber b),
        BitVec.ofNat 32 (bytesToNumber c)) := by
  have digits {s : List Byte} (hs : s.length = 4) : (s.flatMap byteHex).length = 8 := by
    rw [flatMap_byteHex_length, hs]
  rw [List.flatMap_append, List.flatMap_append]
  exact txidWordsOfHex_append (digits ha) (digits hb) (digits hc) (hexNumber_flatMap_byteHex a)
    (hexNumber_flatMap_byteHex b) (hexNumber_flatMap_byteHex c)

/-- The big-endian bytes of a number are those of its high part, then those of its low part. -/
theorem bigEndian_add (n j k : Nat) : bigEndian n (j + k) = bigEndian (n / 256 ^ k) j ++ bigEndian n k := by
  induction j with
  | zero => simp [bigEndian]
  | succ j ih =>
    rw [Nat.add_right_comm, bigEndian, bigEndian, ih, List.cons_append, Nat.div_div_eq_div_mul, ← pow_add,
      Nat.add_comm k j]

/-- The 32-bit word `k` bytes from the right of a transaction id (10_state.md R18). -/
theorem ofNat_bytesToNumber_bigEndian_txid (t : TxId) (k : Nat) :
    BitVec.ofNat 32 (bytesToNumber (bigEndian (t.toNat / 256 ^ k) 4)) = t.extractLsb' (8 * k) 32 := by
  apply BitVec.eq_of_toNat_eq
  simp [bytesToNumber_bigEndian, Nat.shiftRight_eq_div_pow, pow_mul]

/-- Settles O41: the twelve bytes of the id are three groups of four, and each group is a word of the id. -/
theorem txidHexReadsBack : Obligations.TxidHexReadsBack := by
  unfold Obligations.TxidHexReadsBack
  intro t
  refine ⟨by rw [txidHex, flatMap_byteHex_length, bigEndian_length], ?_⟩
  have hgroups : bigEndian t.toNat 12 =
      bigEndian (t.toNat / 256 ^ 8) 4 ++ bigEndian (t.toNat / 256 ^ 4) 4 ++ bigEndian (t.toNat / 256 ^ 0) 4 := by
    rw [pow_zero, Nat.div_one, List.append_assoc, ← bigEndian_add, ← bigEndian_add]
  rw [txidHex, hgroups,
    txidWordsOfHex_flatMap_byteHex (bigEndian_length _ _) (bigEndian_length _ _) (bigEndian_length _ _),
    ofNat_bytesToNumber_bigEndian_txid, ofNat_bytesToNumber_bigEndian_txid, ofNat_bytesToNumber_bigEndian_txid]

end Sys2Proof.Machine
end

section
/-! SUPPORT. The attribute codec (41_attribute.md R111 to R117): the two registry lookups, and the round trip, through
one description of the windows that parse to a given attribute. -/

namespace Sys2Proof.Machine

/-! ### Registry lookups -/

/-- In an admissible registry exactly the ids 8 to 15 have no code (41_attribute.md R112). -/
theorem codeForName_eq_none_iff {r : List RegistryRow} (h : registryAdmissible r = true) (name : NameId) :
    codeForName r name = none ↔ 8 ≤ name.toNat := by
  rw [codeForName_eq_none, (registryAdmissible_iff.mp h).1]
  revert name
  decide

/-- In an admissible registry each of the eight names has a code (41_attribute.md R112). -/
theorem exists_codeForName {r : List RegistryRow} (h : registryAdmissible r = true) {name : NameId}
    (hname : name.toNat ≤ 7) : ∃ code, codeForName r name = some code := by
  rw [← Option.ne_none_iff_exists', Ne, codeForName_eq_none_iff h]
  omega

/-- Settles O42: the two lookups find the same rows, and an admissible registry has a row for each id up to 7. -/
theorem registryLookupsAreInverse : Obligations.RegistryLookupsAreInverse := by
  unfold Obligations.RegistryLookupsAreInverse
  intro r h
  have inverse {code : Word16} {name : NameId} := codeForName_eq_some_iff_nameForCode h (code := code) (name := name)
  obtain ⟨-, -, hffff⟩ := registryAdmissible_iff.mp h
  refine ⟨fun name hname => ?_, fun code name hn => ⟨nameForCode_toNat_le h hn, inverse.mpr hn⟩,
    fun name => (codeForName_eq_none_iff h name).mpr, nameForCode_eq_none.mpr hffff⟩
  obtain ⟨code, hcode⟩ := exists_codeForName h hname
  exact ⟨code, hcode, (codeForName_eq_some (registryAdmissible_names_nodup h)).mp hcode, inverse.mp hcode⟩

/-- A code that stands in no row has no name. -/
theorem nameForCode_of_forall_not_mem {r : List RegistryRow} (h : registryAdmissible r = true) {code : Word16}
    (hrow : ∀ name, { code := code, name := name } ∉ r) : nameForCode r code = none := by
  obtain ⟨-, hcodes, -⟩ := registryAdmissible_iff.mp h
  exact Option.eq_none_iff_forall_ne_some.mpr fun name hn => hrow name ((nameForCode_eq_some hcodes).mp hn)

/-! ### The round trip -/

/-- A code, a length and what follows are an attribute window (20_memory.md R50). -/
theorem attributeWindow_halves (code length : Word16) (rest : List Byte) :
    attributeWindow (code.extractLsb' 8 8) (code.extractLsb' 0 8) (length.extractLsb' 8 8) (length.extractLsb' 0 8)
      rest = fieldBytes code ++ fieldBytes length ++ rest := by
  rw [fieldBytes_eq, fieldBytes_eq]
  rfl

/-- A window of at least four bytes is an attribute window. -/
theorem exists_attributeWindow {w : List Byte} (h : 4 ≤ w.length) :
    ∃ code length rest, w = fieldBytes code ++ fieldBytes length ++ rest := by
  match w, h with
  | c0 :: c1 :: l0 :: l1 :: rest, _ =>
    exact ⟨word16 c0 c1, word16 l0 l1, rest, by rw [fieldBytes_word16, fieldBytes_word16]; rfl⟩

/-- The windows that parse to an attribute: a code of its name, its length, its value of that length, and anything
(41_attribute.md R113). -/
theorem parseAttribute_eq_ok_iff {c : Config} {w : List Byte} {a : Attribute} :
    parseAttribute c w = .ok a ↔
      a.value.length = a.length.toNat ∧ ∃ code rest, nameForCode c.registry code = some a.name ∧
        w = fieldBytes code ++ fieldBytes a.length ++ a.value ++ rest := by
  constructor
  · intro h
    obtain ⟨hvalue, hlong, -, -, -⟩ := parseAttribute_ok h
    obtain ⟨code, length, rest, rfl⟩ := exists_attributeWindow (Nat.le_of_add_right_le hlong)
    rw [← attributeWindow_halves, parseAttribute_attributeWindow, word16_halves, word16_halves] at h
    split_ifs at h
    split at h
    · cases h
    · next name hname =>
      cases h
      exact ⟨hvalue, code, rest.drop length.toNat, hname, by simp only [List.append_assoc, List.take_append_drop]⟩
  · rintro ⟨hvalue, code, rest, hname, rfl⟩
    have hlong : ¬ (a.value ++ rest).length < a.length.toNat := by rw [List.length_append]; omega
    rw [List.append_assoc, ← attributeWindow_halves, parseAttribute_attributeWindow, word16_halves, word16_halves,
      if_neg hlong, hname, List.take_left' hvalue]

/-- `generateAttribute` of an attribute with its declared length and a name of the registry (41_attribute.md R115). -/
theorem generateAttribute_of_code {c : Config} {a : Attribute} {code : Word16}
    (hvalue : a.value.length = a.length.toNat) (hcode : codeForName c.registry a.name = some code) :
    generateAttribute c a = .ok (fieldBytes code ++ fieldBytes a.length ++ a.value ++
      List.replicate (padCount a.length.toNat) 0x00#8) := by
  rw [generateAttribute_eq, if_neg (not_not.mpr hvalue), hcode]

/-- What is generated parses to the attribute generated (41_attribute.md R117). -/
theorem parseAttribute_of_generateAttribute {c : Config} (hc : registryAdmissible c.registry = true) {a : Attribute}
    (hvalue : a.value.length = a.length.toNat) (hname : a.name.toNat ≤ 7) :
    ∃ b, generateAttribute c a = .ok b ∧ parseAttribute c b = .ok a := by
  obtain ⟨code, hcode⟩ := exists_codeForName hc hname
  have hparse := (codeForName_eq_some_iff_nameForCode hc).mp hcode
  exact ⟨_, generateAttribute_of_code hvalue hcode, parseAttribute_eq_ok_iff.mpr ⟨hvalue, code, _, hparse, rfl⟩⟩

/-- What parses generates the bytes it was parsed from, up to padding (41_attribute.md R117). -/
theorem generateAttribute_of_parseAttribute {c : Config} (hc : registryAdmissible c.registry = true) {w : List Byte}
    {a : Attribute} (h : parseAttribute c w = .ok a) :
    generateAttribute c a = .ok (w.take (4 + a.length.toNat) ++
      List.replicate ((4 - a.length.toNat % 4) % 4) 0x00#8) := by
  obtain ⟨hvalue, code, rest, hname, rfl⟩ := parseAttribute_eq_ok_iff.mp h
  have hlength : (fieldBytes code ++ fieldBytes a.length ++ a.value).length = 4 + a.length.toNat := by
    simp only [List.length_append, fieldBytes_length, hvalue]
  rw [generateAttribute_of_code hvalue ((codeForName_eq_some_iff_nameForCode hc).mpr hname),
    List.take_left' hlength]
  rfl

/-- Settles O44, by the description of the windows that parse to an attribute. -/
theorem attributeRoundTrips : Obligations.AttributeRoundTrips := by
  unfold Obligations.AttributeRoundTrips
  refine fun c hc => ⟨fun a hvalue hname => ?_, fun w a => generateAttribute_of_parseAttribute hc⟩
  obtain ⟨b, hgenerate, hparse⟩ := parseAttribute_of_generateAttribute hc hvalue hname
  obtain ⟨-, hlength⟩ := generateAttribute_length hgenerate
  exact ⟨b, hgenerate, by omega, hparse⟩

end Sys2Proof.Machine
end

section
/-! SUPPORT. PARSEATTR and GENATTR on the unit: what each answers, said through its pure function, and the round trip in
command terms (41_attribute.md R114, R116, R117). -/

namespace Sys2Proof.Machine

/-- The value of an attribute that parses is within VAL's capacity (20_memory.md R52). -/
theorem parseAttribute_fits {c : Config} {w : List Byte} {a : Attribute} (h : parseAttribute c w = .ok a) :
    a.value.length ≤ unitConfig.valCap := by
  obtain ⟨hvalue, -⟩ := parseAttribute_eq_ok_iff.mp h
  rw [hvalue]
  exact Nat.le_of_lt_succ a.length.isLt

/-- A generated attribute is within OUT's capacity (20_memory.md R52). -/
theorem generateAttribute_fits {c : Config} {a : Attribute} {bytes : List Byte}
    (h : generateAttribute c a = .ok bytes) : bytes.length ≤ unitConfig.outCap := by
  obtain ⟨-, hlength⟩ := generateAttribute_length h
  have hlt : a.length.toNat < 65536 := a.length.isLt
  have hcap : unitConfig.outCap = 65540 := rfl
  omega

/-- PARSEATTR is its function on IN (41_attribute.md R114). -/
theorem exec_parseattr (s : State) : exec .parseattr s = parseattrWith unitConfig s.mem.bufIn s := rfl

/-- GENATTR ends by writing OUT whole (41_attribute.md R116). -/
theorem exec_genattr (s : State) :
    exec .genattr s = finishWriting unitConfig .bufOut (generateAttribute unitConfig (attributeOperand s)) s := rfl

section
variable {s : State} {a : Attribute} {bytes : List Byte} {e : Err}

/-- PARSEATTR of a window that parses takes the attribute. -/
theorem execParseattr_of_ok (h : parseAttribute unitConfig s.mem.bufIn = .ok a) :
    exec .parseattr s = .next ((valWritten s a.value).setAttribute a.name a.length) :=
  (parseattrWith_ok s h).trans (succeedWriting_fits _ (parseAttribute_fits h))

/-- PARSEATTR of a window that does not parse changes STATUS alone. -/
theorem execParseattr_of_error (h : parseAttribute unitConfig s.mem.bufIn = .error e) :
    exec .parseattr s = .next (errorState s (errCode e)) :=
  parseattrWith_error s h

/-- GENATTR of an attribute that generates writes OUT. -/
theorem execGenattr_of_ok (h : generateAttribute unitConfig (attributeOperand s) = .ok bytes) :
    exec .genattr s = .next (outWritten s bytes) := by
  rw [exec_genattr, h]
  exact succeedWriting_fits s (generateAttribute_fits h)

/-- GENATTR of an attribute that does not generate changes STATUS alone. -/
theorem execGenattr_of_error (h : generateAttribute unitConfig (attributeOperand s) = .error e) :
    exec .genattr s = .next (errorState s (errCode e)) := by
  rw [exec_genattr, h]
  rfl

end

/-! ### Where the pure functions fail -/

/-- A window shorter than an attribute's header is truncated (41_attribute.md R113). -/
theorem parseAttribute_short (c : Config) {w : List Byte} (h : w.length < 4) :
    parseAttribute c w = .error .attrTrunc := by
  unfold parseAttribute
  exact if_pos h

/-- An attribute window that ends before the value does is truncated (41_attribute.md R113). -/
theorem parseAttribute_truncated (c : Config) {c0 c1 l0 l1 : Byte} {rest : List Byte}
    (h : rest.length < (word16 l0 l1).toNat) :
    parseAttribute c (attributeWindow c0 c1 l0 l1 rest) = .error .attrTrunc := by
  rw [parseAttribute_attributeWindow, if_pos h]

/-- A value of another length than declared does not generate, whatever the name (41_attribute.md R115). -/
theorem generateAttribute_mismatch (c : Config) {a : Attribute} (h : a.value.length ≠ a.length.toNat) :
    generateAttribute c a = .error .lenMismatch := by
  rw [generateAttribute_eq, if_pos h]

/-- A name without a code does not generate (41_attribute.md R115). -/
theorem generateAttribute_unknownName {c : Config} {a : Attribute} (hvalue : a.value.length = a.length.toNat)
    (hname : codeForName c.registry a.name = none) : generateAttribute c a = .error .unknownName := by
  rw [generateAttribute_eq, if_neg (not_not.mpr hvalue), hname]

/-! ### The statements about the two commands -/

/-- Settles O6: by what `parseAttribute` answers on a short window and on an attribute window. -/
theorem parseattrTakesTheAttributeOrRaisesItsFirstError :
    Obligations.ParseattrTakesTheAttributeOrRaisesItsFirstError := by
  unfold Obligations.ParseattrTakesTheAttributeOrRaisesItsFirstError
  intro s
  obtain ⟨-, hcodes, -⟩ := registryAdmissible_iff.mp unitConfig_admissible
  refine ⟨?taken, ?short, ?truncated, ?unknownType⟩
  case taken =>
    intro c0 c1 l0 l1 value rest name hin hvalue hrow
    have hfit : value.length ≤ unitConfig.valCap := hvalue ▸ Nat.le_of_lt_succ (word16 l0 l1).isLt
    rw [exec_parseattr, hin]
    exact parseattrWith_attributeWindow_known ((nameForCode_eq_some hcodes).mpr hrow) hvalue hfit rest s
  case short => exact fun hshort => execParseattr_of_error (parseAttribute_short _ hshort)
  case truncated =>
    intro c0 c1 l0 l1 rest hin hshort
    exact execParseattr_of_error (hin ▸ parseAttribute_truncated _ hshort)
  case unknownType =>
    intro c0 c1 l0 l1 rest hin hlong hrow
    rw [exec_parseattr, hin]
    exact parseattrWith_attributeWindow_unknown (nameForCode_of_forall_not_mem unitConfig_admissible hrow) hlong s

/-- Settles O7: by what `generateAttribute` answers on the operands. -/
theorem genattrBuildsTheAttributeOrRaisesItsFirstError :
    Obligations.GenattrBuildsTheAttributeOrRaisesItsFirstError := by
  unfold Obligations.GenattrBuildsTheAttributeOrRaisesItsFirstError
  intro s
  refine ⟨?built, ?mismatch, ?unknownName⟩
  case built =>
    intro code hvalue hrow
    have hcode := (codeForName_eq_some (registryAdmissible_names_nodup unitConfig_admissible)).mpr hrow
    rw [execGenattr_of_ok (generateAttribute_of_code hvalue hcode), fieldBytes_eq, fieldBytes_eq]
    rfl
  case mismatch => exact fun hvalue => execGenattr_of_error (generateAttribute_mismatch _ hvalue)
  case unknownName =>
    intro hvalue hname
    have hnone := (codeForName_eq_none_iff unitConfig_admissible s.aType).mpr hname
    exact execGenattr_of_error (generateAttribute_unknownName hvalue hnone)

/-- Settles O56: the round trip of the pure functions, carried out by the two commands. -/
theorem attributeRoundTripsOnTheUnit : Obligations.AttributeRoundTripsOnTheUnit := by
  unfold Obligations.AttributeRoundTripsOnTheUnit
  refine fun s => ⟨fun hname hvalue => ?_, fun t h hok => ?_⟩
  · obtain ⟨b, hgenerate, hparse⟩ :=
      parseAttribute_of_generateAttribute unitConfig_admissible (a := attributeOperand s) hvalue hname
    refine ⟨outWritten s b, execGenattr_of_ok hgenerate, ?_⟩
    exact execParseattr_of_ok (s := (outWritten s b).setBuffer .bufIn b) hparse
  · exact execGenattr_of_ok
      (generateAttribute_of_parseAttribute unitConfig_admissible ((execParseattr_endsWith h).result hok))

end Sys2Proof.Machine
end

section
/-! SUPPORT. GENXMA and RMPAD: `parseDottedQuad` reads only strings of the grammar, the XOR undoes itself, and only
trailing zeros are stripped (41_attribute.md R118 to R123). -/

namespace Sys2Proof.Machine

/-! ### A string that parses is one of the grammar -/

theorem splitDots_ne_nil (s : List Byte) : splitDots s ≠ [] := by
  cases s with
  | nil => simp [splitDots]
  | cons b s =>
    rw [splitDots]
    split_ifs
    · simp
    · split <;> simp

/-- Cutting at the dots loses nothing (41_attribute.md R118). -/
theorem intercalate_splitDots (s : List Byte) : [dot].intercalate (splitDots s) = s := by
  induction s with
  | nil => rfl
  | cons b s ih =>
    rw [splitDots]
    split_ifs with hb
    · rw [List.intercalate_cons_of_ne_nil (splitDots_ne_nil s), ih, hb]
      rfl
    · cases hs : splitDots s with
      | nil => exact absurd hs (splitDots_ne_nil s)
      | cons f fs =>
        rw [hs] at ih
        cases fs with
        | nil => simpa using ih
        | cons f' fs => simpa [List.intercalate_cons_cons] using ih

/-- The digits that the bytes of a field stand for. -/
def fieldDigits (f : List Byte) : List Nat := f.map (fun b => b.toNat - 0x30)

/-- A field of digit bytes is written by its digits. -/
theorem map_fieldDigits {f : List Byte} (h : f.all isDigit = true) :
    (fieldDigits f).map (fun d => BitVec.ofNat 8 (0x30 + d)) = f := by
  rw [fieldDigits, List.map_map, List.map_congr_left (g := id), List.map_id]
  intro b hb
  have hdigit := List.all_eq_true.mp h b hb
  simp only [isDigit, Bool.and_eq_true, decide_eq_true_eq] at hdigit
  apply BitVec.eq_of_toNat_eq
  simp
  omega

theorem fieldDigits_lt {f : List Byte} (h : f.all isDigit = true) : ∀ d ∈ fieldDigits f, d < 10 := by
  intro d hd
  obtain ⟨b, hb, rfl⟩ := List.mem_map.mp hd
  have hdigit := List.all_eq_true.mp h b hb
  simp only [isDigit, Bool.and_eq_true, decide_eq_true_eq] at hdigit
  omega

/-- The decimal value of a field is the number its digits write. -/
theorem decimalValue_eq_ofDigits {f : List Byte} (h : f.all isDigit = true) :
    decimalValue f = Nat.ofDigits 10 (fieldDigits f).reverse := by
  have hfold := foldl_digits (fieldDigits f) (fieldDigits_lt h) 0
  rw [map_fieldDigits h, Nat.zero_mul, Nat.zero_add] at hfold
  exact hfold

/-- A field that parses is a field of the grammar (41_attribute.md R118). -/
theorem octetField_of_parseOctet {f : List Byte} {v : Byte} (h : parseOctet f = some v) : OctetField f v.toNat := by
  unfold parseOctet at h
  split_ifs at h with hlength hdigits hvalue
  cases h
  have hdigits : f.all isDigit = true := by simpa using hdigits
  have hlen : (fieldDigits f).length = f.length := List.length_map _
  have hnat : (BitVec.ofNat 8 (decimalValue f)).toNat = decimalValue f := by simp; omega
  rw [hnat]
  exact ⟨fieldDigits f, by omega, by omega, fieldDigits_lt hdigits, decimalValue_eq_ofDigits hdigits, by omega,
    (map_fieldDigits hdigits).symm⟩

/-- A string that parses is a dotted quad of the grammar (41_attribute.md R118). -/
theorem dottedQuad_of_parseDottedQuad {s : List Byte} {o : Octets} (h : parseDottedQuad s = some o) :
    DottedQuad s o.o0.toNat o.o1.toNat o.o2.toNat o.o3.toNat := by
  unfold parseDottedQuad at h
  split at h
  · next f0 f1 f2 f3 hfields =>
    split at h
    · next o0 o1 o2 o3 h0 h1 h2 h3 =>
      cases h
      refine ⟨f0, f1, f2, f3, octetField_of_parseOctet h0, octetField_of_parseOctet h1, octetField_of_parseOctet h2,
        octetField_of_parseOctet h3, ?_⟩
      rw [← intercalate_splitDots s, hfields]
      simp [List.intercalate_cons_cons, dot]
    · cases h
  · cases h

/-! ### The value GENXMA writes -/

/-- The XOR-MAPPED-ADDRESS value of a port and four octets (41_attribute.md R119; 30_encoding.md R77). -/
def xorMappedValue (port : Word16) (o0 o1 o2 o3 : Byte) : List Byte :=
  [0x00#8, 0x01#8, port.extractLsb' 8 8 ^^^ 0x21#8, port.extractLsb' 0 8 ^^^ 0x12#8,
    o0 ^^^ 0x21#8, o1 ^^^ 0x12#8, o2 ^^^ 0xA4#8, o3 ^^^ 0x42#8]

/-- `generateXorMappedAddress` of an ipv4 address whose string parses (41_attribute.md R119). -/
theorem generateXorMappedAddress_of_octets {a : TransportAddress} {o : Octets} (hfamily : a.family = .ipv4)
    (hparse : parseDottedQuad a.address = some o) :
    generateXorMappedAddress a = .ok (xorMappedValue a.port o.o0 o.o1 o.o2 o.o3) := by
  rw [generateXorMappedAddress_eq, hfamily, hparse, fieldBytes_eq, BitVec.extractLsb'_xor, BitVec.extractLsb'_xor]
  rfl

/-- `generateXorMappedAddress` refuses the family ipv6 first (41_attribute.md R119). -/
theorem generateXorMappedAddress_ipv6 {a : TransportAddress} (hfamily : a.family = .ipv6) :
    generateXorMappedAddress a = .error .ipv6 := by
  rw [generateXorMappedAddress_eq, hfamily]

/-- `generateXorMappedAddress` refuses an ipv4 address whose string does not parse (41_attribute.md R119). -/
theorem generateXorMappedAddress_addrFormat {a : TransportAddress} (hfamily : a.family = .ipv4)
    (hparse : parseDottedQuad a.address = none) : generateXorMappedAddress a = .error .addrFormat := by
  rw [generateXorMappedAddress_eq, hfamily, hparse]

/-- GENXMA ends by writing VAL whole (41_attribute.md R120). -/
theorem exec_genxma (s : State) :
    exec .genxma s = finishWriting unitConfig .bufVal (generateXorMappedAddress (addressOperand s)) s := rfl

section
variable {s : State}

theorem addressOperand_family_ipv4 (h : s.xFamily = 0#1) : (addressOperand s).family = .ipv4 := if_pos h

theorem addressOperand_family_ipv6 (h : s.xFamily = 1#1) : (addressOperand s).family = .ipv6 :=
  if_neg (by rw [h]; decide)

/-- GENXMA of an address that generates writes VAL. -/
theorem execGenxma_of_ok {bytes : List Byte} (h : generateXorMappedAddress (addressOperand s) = .ok bytes) :
    exec .genxma s = .next (valWritten s bytes) := by
  have hfit : bytes.length ≤ capacity unitConfig .bufVal := by
    rw [generateXorMappedAddress_length h]
    decide
  rw [exec_genxma, h]
  exact succeedWriting_fits s hfit

/-- GENXMA of an address that does not generate changes STATUS alone. -/
theorem execGenxma_of_error {e : Err} (h : generateXorMappedAddress (addressOperand s) = .error e) :
    exec .genxma s = .next (errorState s (errCode e)) := by
  rw [exec_genxma, h]
  rfl

/-- GENXMA of a dotted quad writes the value of its port and octets (41_attribute.md R120). -/
theorem execGenxma_of_dottedQuad {o0 o1 o2 o3 : Nat} (hfamily : s.xFamily = 0#1)
    (hquad : DottedQuad s.mem.bufXaddr o0 o1 o2 o3) :
    exec .genxma s = .next (valWritten s (xorMappedValue s.xPort (BitVec.ofNat 8 o0) (BitVec.ofNat 8 o1)
      (BitVec.ofNat 8 o2) (BitVec.ofNat 8 o3))) :=
  execGenxma_of_ok (generateXorMappedAddress_of_octets (addressOperand_family_ipv4 hfamily)
    (parseDottedQuad_dottedQuad hquad))

end

/-- Settles O8: `parseDottedQuad` reads exactly the strings of the grammar. -/
theorem genxmaBuildsTheValueOrRaises : Obligations.GenxmaBuildsTheValueOrRaises := by
  unfold Obligations.GenxmaBuildsTheValueOrRaises
  intro s
  refine ⟨fun o0 o1 o2 o3 => execGenxma_of_dottedQuad, ?ipv6, ?addrFormat⟩
  case ipv6 =>
    exact fun hfamily => execGenxma_of_error (generateXorMappedAddress_ipv6 (addressOperand_family_ipv6 hfamily))
  case addrFormat =>
    intro hfamily hquad
    have hnone : parseDottedQuad s.mem.bufXaddr = none :=
      Option.eq_none_iff_forall_ne_some.mpr fun o ho => hquad _ _ _ _ (dottedQuad_of_parseDottedQuad ho)
    exact execGenxma_of_error (generateXorMappedAddress_addrFormat (addressOperand_family_ipv4 hfamily) hnone)

/-! ### The XOR undone -/

/-- The XOR with the cookie's upper half, byte by byte, undone on the word (41_attribute.md R121). -/
theorem word16_xor_magicHigh (port : Word16) :
    word16 (port.extractLsb' 8 8 ^^^ 0x21#8) (port.extractLsb' 0 8 ^^^ 0x12#8) ^^^ 0x2112#16 = port := by
  have hword : word16 (port.extractLsb' 8 8 ^^^ 0x21#8) (port.extractLsb' 0 8 ^^^ 0x12#8) = port ^^^ 0x2112#16 := by
    rw [← word16_halves (port ^^^ 0x2112#16), BitVec.extractLsb'_xor, BitVec.extractLsb'_xor]
    rfl
  rw [hword, xor_cancel_right]

/-- The XOR of an octet undone (41_attribute.md R121). -/
theorem octet_xor_xor_toNat {f : List Byte} {o : Nat} (h : OctetField f o) (k : Byte) :
    (BitVec.ofNat 8 o ^^^ k ^^^ k).toNat = o := by
  obtain ⟨-, -, hle⟩ := parseOctet_octetField h
  rw [xor_cancel_right, BitVec.toNat_ofNat]
  omega

/-- Settles O45, by the value that GENXMA writes. -/
theorem xorTransformIsItsOwnInverse : Obligations.XorTransformIsItsOwnInverse := by
  unfold Obligations.XorTransformIsItsOwnInverse
  refine ⟨fun port => xor_cancel_right _ _, fun octet k _ => xor_cancel_right _ _, ?_⟩
  intro s o0 o1 o2 o3 t hfamily hquad h
  cases (execGenxma_of_dottedQuad hfamily hquad).symm.trans h
  obtain ⟨f0, f1, f2, f3, h0, h1, h2, h3, -⟩ := hquad
  exact ⟨_, _, _, _, _, _, _, _, rfl, word16_xor_magicHigh s.xPort, octet_xor_xor_toNat h0 _,
    octet_xor_xor_toNat h1 _, octet_xor_xor_toNat h2 _, octet_xor_xor_toNat h3 _⟩

/-! ### Padding removed -/

/-- A value that does not end in zero is what remains of it with zeros behind (41_attribute.md R122). -/
theorem removePadding_append_replicate {value : List Byte} (hlast : value.getLast? ≠ some 0x00#8) (zeros : Nat) :
    removePadding (value ++ List.replicate zeros 0x00#8) = value := by
  have hzeros : ∀ b ∈ List.replicate zeros 0x00#8, (b == 0x00#8) = true :=
    fun b hb => beq_iff_eq.mpr (List.eq_of_mem_replicate hb)
  have hkept : List.rdropWhile (· == 0x00#8) value = value := by
    rw [List.rdropWhile_eq_self_iff]
    intro hne hzero
    exact hlast (by rw [List.getLast?_eq_some_getLast hne, beq_iff_eq.mp hzero])
  rw [removePadding, List.reverse_append, List.reverse_replicate, List.dropWhile_append_of_pos hzeros]
  exact hkept

/-- Settles O9: the stripped value is within VAL's capacity. -/
theorem rmpadStripsTrailingZeros : Obligations.RmpadStripsTrailingZeros := by
  unfold Obligations.RmpadStripsTrailingZeros
  intro s value zeros hval hlast hfit
  have hexec : exec .rmpad s = succeedWriting unitConfig .bufVal (removePadding s.mem.bufVal) s := rfl
  rw [hexec, hval, removePadding_append_replicate hlast]
  exact succeedWriting_fits s hfit

end Sys2Proof.Machine
end

section
/-! SUPPORT. The message-type bit field is a bijection between the classes and methods and the words whose two top bits
are zero, under either layout (42_header.md R143). -/

namespace Sys2Proof.Machine

/-- The packed type is the scattered field on the wire (42_header.md R142). -/
theorem packType_eq (layout : TypeLayout) (cls : ClassCode) (method : MethodCode) :
    packType layout cls method = .ok (fieldBytes (scatterType layout cls method)) :=
  numberToBytes_word16 _

section
variable {layout : TypeLayout} {b0 b1 : Byte} {cls : ClassCode} {method : MethodCode}

/-- Two bytes unpack to a class and a method, reserved bits zero, exactly when they are its scattered field on the
wire (42_header.md R143). -/
theorem unpackType_eq_iff :
    unpackType layout b0 b1 = { reserved := 0#2, cls := cls, method := method } ↔
      [b0, b1] = fieldBytes (scatterType layout cls method) := by
  rw [unpackType_eq_gatherType, gatherType_eq_iff, eq_fieldBytes_iff]

/-- Packing gives exactly the two bytes that unpack to the class and the method (42_header.md R143). -/
theorem packType_eq_ok_iff :
    packType layout cls method = .ok [b0, b1] ↔
      unpackType layout b0 b1 = { reserved := 0#2, cls := cls, method := method } := by
  rw [packType_eq, unpackType_eq_iff, Except.ok.injEq, eq_comm]

end

/-- Every class and method is packed into two bytes that unpack to it (42_header.md R143). -/
theorem exists_packType (layout : TypeLayout) (cls : ClassCode) (method : MethodCode) :
    ∃ b0 b1, packType layout cls method = .ok [b0, b1] ∧
      unpackType layout b0 b1 = { reserved := 0#2, cls := cls, method := method } :=
  have hunpack := unpackType_scatterType layout cls method
  ⟨_, _, packType_eq_ok_iff.mpr hunpack, hunpack⟩

/-- Settles O37: packing and unpacking are one relation between a class and method and two bytes. -/
theorem packTypeAndUnpackTypeAreInverse : Obligations.PackTypeAndUnpackTypeAreInverse := by
  unfold Obligations.PackTypeAndUnpackTypeAreInverse
  intro layout
  refine ⟨exists_packType layout, fun b0 b1 cls method => packType_eq_ok_iff.mpr, fun b0 b1 => ?image,
    fun cls method cls' method' h => ?injective, fun low => ?smallMethods⟩
  case image =>
    simp only [packType_eq_ok_iff, ← unpackType_reserved layout b0 b1]
    constructor
    · rintro ⟨cls, method, h⟩
      rw [h]
    · intro h
      exact ⟨_, _, by rw [← h]⟩
  case injective =>
    obtain ⟨b0, b1, hpack, hunpack⟩ := exists_packType layout cls method
    have hunpack' := packType_eq_ok_iff.mp (h.symm.trans hpack)
    simpa using hunpack.symm.trans hunpack'
  case smallMethods =>
    cases layout <;> revert low <;> decide

end Sys2Proof.Machine
end

section
/-! SUPPORT. The transaction id as its three words and as its twelve bytes (10_state.md R18; 42_header.md R148). -/

namespace Sys2Proof.Machine

/-- The words of a transaction id made of three words. -/
theorem txidWord_append (x y z : Word32) :
    txidWord (x ++ y ++ z) 0 = x ∧ txidWord (x ++ y ++ z) 1 = y ∧ txidWord (x ++ y ++ z) 2 = z := by
  have hx := x.isLt
  have hy := y.isLt
  have hz := z.isLt
  refine ⟨?_, ?_, ?_⟩ <;> apply BitVec.eq_of_toNat_eq <;>
    simp only [txidWord, BitVec.extractLsb'_toNat, append_toNat, Nat.shiftRight_eq_div_pow] <;> omega

/-- A transaction id is made of its three words. -/
theorem txidWord_append_txidWord (id : TxId) : txidWord id 0 ++ txidWord id 1 ++ txidWord id 2 = id := by
  have hid := id.isLt
  apply BitVec.eq_of_toNat_eq
  simp only [txidWord, append_toNat, BitVec.extractLsb'_toNat, Nat.shiftRight_eq_div_pow]
  omega

/-- Emitting the three words gives the twelve bytes of the id (42_header.md R148). -/
theorem bigEndian_txid (id : TxId) :
    bigEndian id.toNat 12 = bigEndian (txidWord id 0).toNat 4 ++ bigEndian (txidWord id 1).toNat 4 ++
      bigEndian (txidWord id 2).toNat 4 := by
  refine bytesToNumber_inj (by simp) ?_
  conv_lhs => rw [← txidWord_append_txidWord id]
  have h0 := (txidWord id 0).isLt
  have h1 := (txidWord id 1).isLt
  have h2 := (txidWord id 2).isLt
  simp only [bytesToNumber_append, bytesToNumber_bigEndian, bigEndian_length, append_toNat]
  omega

/-- The bytes of a word write the word. -/
theorem ofNat_bytesToNumber_bigEndian (n : Nat) (x : BitVec n) {k : Nat} (hk : 2 ^ n = 256 ^ k) :
    BitVec.ofNat n (bytesToNumber (bigEndian x.toNat k)) = x := by
  rw [bytesToNumber_bigEndian, ← hk, Nat.mod_eq_of_lt x.isLt, BitVec.ofNat_toNat, BitVec.setWidth_eq]

/-- A sequence of `k` bytes is the bytes of the word it writes. -/
theorem bigEndian_ofNat_bytesToNumber {n k : Nat} {s : List Byte} (hs : s.length = k) (hk : 2 ^ n = 256 ^ k) :
    bigEndian (BitVec.ofNat n (bytesToNumber s)).toNat k = s := by
  subst hs
  rw [BitVec.toNat_ofNat, hk, Nat.mod_eq_of_lt (bytesToNumber_lt s), bigEndian_bytesToNumber]

end Sys2Proof.Machine
end

section
/-! SUPPORT. The header codec (42_header.md R144 to R151): where it fails, and the round trip, through one description
of the windows that parse to a given header. -/

namespace Sys2Proof.Machine

/-! ### Windows -/

/-- A window shorter than a header is refused first (42_header.md R145). -/
theorem parseHeader_short (c : Config) {w : List Byte} (h : w.length < 20) : parseHeader c w = .error .shortHdr := by
  unfold parseHeader
  exact if_pos h

/-- The bytes at indices 4 to 7 write the cookie exactly when they are its bytes (10_state.md R30). -/
theorem field_eq_magic_iff {w : List Byte} (h : 20 ≤ w.length) :
    field w 4 8 = magic.toNat ↔ slice w 4 8 = magicBytes := by
  have hmagic : bytesToNumber magicBytes = magic.toNat := by decide
  have hlength : (slice w 4 8).length = magicBytes.length := by simp [slice, magicBytes]; omega
  rw [← hmagic]
  exact ⟨bytesToNumber_inj hlength, congrArg bytesToNumber⟩

/-- A long enough window with a wrong cookie is refused before its type is read (42_header.md R145). -/
theorem parseHeader_badCookie (c : Config) {w : List Byte} (hlong : 20 ≤ w.length) (h : slice w 4 8 ≠ magicBytes) :
    parseHeader c w = .error .badCookie := by
  have hexact : ¬ w.length < hdrLen := Nat.not_lt.mpr hlong
  unfold parseHeader
  rw [if_neg hexact, if_pos (mt (field_eq_magic_iff hlong).mp h)]

/-- A list of the right length is a finite sequence. -/
theorem exists_ofFn_eq {α : Type} {n : Nat} {l : List α} (h : l.length = n) : ∃ t : Fin n → α, List.ofFn t = l := by
  subst h
  exact ⟨l.get, List.ofFn_get l⟩

/-- A window of at least twenty bytes with the cookie is a header window. -/
theorem exists_headerWindow {w : List Byte} (hlong : 20 ≤ w.length) (hcookie : slice w 4 8 = magicBytes) :
    ∃ b0 b1 l0 l1 t rest, w = headerWindow b0 b1 l0 l1 t rest := by
  match w, hlong with
  | b0 :: b1 :: l0 :: l1 :: tail, hlong =>
    obtain ⟨t, ht⟩ : ∃ t : Fin 12 → Byte, List.ofFn t = (tail.drop 4).take 12 :=
      exists_ofFn_eq (by simp at hlong ⊢; omega)
    have htail : tail.take 4 = magicBytes := hcookie
    refine ⟨b0, b1, l0, l1, t, (tail.drop 4).drop 12, ?_⟩
    calc b0 :: b1 :: l0 :: l1 :: tail
      _ = [b0, b1, l0, l1] ++ (tail.take 4 ++ ((tail.drop 4).take 12 ++ (tail.drop 4).drop 12)) := by
        rw [List.take_append_drop, List.take_append_drop]; rfl
      _ = headerWindow b0 b1 l0 l1 t ((tail.drop 4).drop 12) := by rw [htail, ← ht]; rfl

/-- A window that parses is a header window. -/
theorem exists_headerWindow_of_parseHeader {c : Config} {w : List Byte} {h : Header}
    (hparse : parseHeader c w = .ok h) : ∃ b0 b1 l0 l1 t rest, w = headerWindow b0 b1 l0 l1 t rest := by
  have hlong : 20 ≤ w.length := by
    by_contra hshort
    rw [parseHeader_short c (Nat.not_le.mp hshort)] at hparse
    cases hparse
  have hcookie : slice w 4 8 = magicBytes := by
    by_contra hbad
    rw [parseHeader_badCookie c hlong hbad] at hparse
    cases hparse
  exact exists_headerWindow hlong hcookie

/-! ### The round trip -/

/-- The twenty bytes of a header: its type, its length, the cookie, its transaction id (42_header.md R147, R148). -/
def headerBytes (layout : TypeLayout) (h : Header) : List Byte :=
  fieldBytes (scatterType layout h.cls h.method) ++ fieldBytes h.length ++ magicBytes ++
    bigEndian h.transactionId.toNat 12

/-- A Binding header generates its twenty bytes (42_header.md R147). -/
theorem generateHeader_of_binding (c : Config) {h : Header} (hmethod : h.method = methodBinding) :
    generateHeader c h = .ok (headerBytes c.typeLayout h) := by
  have hmagic : bigEndian magic.toNat 4 = magicBytes := by decide
  rw [generateHeader_eq, if_neg (not_not.mpr hmethod), headerBytes, bigEndian_txid, hmagic]
  simp only [List.append_assoc]

/-- A header of another method does not generate (42_header.md R147). -/
theorem generateHeader_otherMethod (c : Config) {h : Header} (hmethod : h.method ≠ methodBinding) :
    generateHeader c h = .error .unsupMethod := by
  rw [generateHeader_eq, if_pos hmethod]

/-- A window that begins with the bytes of a header, as a header window. -/
theorem headerBytes_append {layout : TypeLayout} {h : Header} {b0 b1 l0 l1 : Byte} {t : Fin 12 → Byte}
    (htype : [b0, b1] = fieldBytes (scatterType layout h.cls h.method)) (hlength : [l0, l1] = fieldBytes h.length)
    (hid : List.ofFn t = bigEndian h.transactionId.toNat 12) (rest : List Byte) :
    headerBytes layout h ++ rest = headerWindow b0 b1 l0 l1 t rest := by
  rw [headerBytes, ← htype, ← hlength, ← hid]
  rfl

/-- The windows that parse to a header: those of a Binding header that begin with its bytes (42_header.md R144). -/
theorem parseHeader_eq_ok_iff {c : Config} {w : List Byte} {h : Header} :
    parseHeader c w = .ok h ↔ h.method = methodBinding ∧ ∃ rest, w = headerBytes c.typeLayout h ++ rest := by
  have ofFn_eq (t : Fin 12 → Byte) :
      [t 0, t 1, t 2, t 3, t 4, t 5, t 6, t 7, t 8, t 9, t 10, t 11] = List.ofFn t := by simp [List.ofFn_succ]
  constructor
  · intro hparse
    obtain ⟨b0, b1, l0, l1, t, rest, rfl⟩ := exists_headerWindow_of_parseHeader hparse
    rw [parseHeader_headerWindow, ofFn_eq] at hparse
    split_ifs at hparse with hreserved hmethod
    cases hparse
    refine ⟨not_not.mp hmethod, rest, (headerBytes_append (unpackType_eq_iff.mp ?_) ?_ ?_ rest).symm⟩
    · rw [← not_not.mp hreserved]
    · exact (fieldBytes_word16 l0 l1).symm
    · exact (bigEndian_ofNat_bytesToNumber (List.length_ofFn) (by norm_num)).symm
  · rintro ⟨hmethod, rest, rfl⟩
    obtain ⟨t, hid⟩ := exists_ofFn_eq (bigEndian_length h.transactionId.toNat 12)
    rw [headerBytes_append (fieldBytes_eq _).symm (fieldBytes_eq _).symm hid, parseHeader_headerWindow,
      unpackType_scatterType, if_neg (by simp), if_neg (not_not.mpr hmethod), word16_halves, ofFn_eq, hid,
      ofNat_bytesToNumber_bigEndian 96 _ (by norm_num)]

/-- What is generated parses to the header generated (42_header.md R151). -/
theorem parseHeader_of_generateHeader {c : Config} {h : Header} {b : List Byte}
    (hgenerate : generateHeader c h = .ok b) : parseHeader c b = .ok h := by
  by_cases hmethod : h.method = methodBinding
  · cases (generateHeader_of_binding c hmethod).symm.trans hgenerate
    exact parseHeader_eq_ok_iff.mpr ⟨hmethod, [], (List.append_nil _).symm⟩
  · cases (generateHeader_otherMethod c hmethod).symm.trans hgenerate

/-- Twenty bytes that parse are what their header generates (42_header.md R151). -/
theorem generateHeader_of_parseHeader {c : Config} {b : List Byte} {h : Header} (hlength : b.length = 20)
    (hparse : parseHeader c b = .ok h) : generateHeader c h = .ok b := by
  obtain ⟨hmethod, rest, rfl⟩ := parseHeader_eq_ok_iff.mp hparse
  have hgenerate := generateHeader_of_binding c hmethod
  have hrest : rest = [] := by
    rw [List.length_append, generateHeader_length hgenerate] at hlength
    exact List.length_eq_zero_iff.mp (Nat.add_eq_left.mp hlength)
  rw [hgenerate, hrest, List.append_nil]

/-- Settles O43, by the description of the windows that parse to a header. -/
theorem headerRoundTrips : Obligations.HeaderRoundTrips := by
  unfold Obligations.HeaderRoundTrips
  refine fun c => ⟨fun h hmethod => ?_, fun b h => generateHeader_of_parseHeader⟩
  have hgenerate := generateHeader_of_binding c hmethod
  exact ⟨_, hgenerate, generateHeader_length hgenerate, parseHeader_of_generateHeader hgenerate⟩

/-- The three words PARSEHDR reads are those of the id parsed (42_header.md R146). -/
theorem field_txidWords {c : Config} {w : List Byte} {h : Header} (hparse : parseHeader c w = .ok h) :
    BitVec.ofNat 32 (field w 8 12) = txidWord h.transactionId 0 ∧
      BitVec.ofNat 32 (field w 12 16) = txidWord h.transactionId 1 ∧
      BitVec.ofNat 32 (field w 16 20) = txidWord h.transactionId 2 := by
  obtain ⟨-, rest, rfl⟩ := parseHeader_eq_ok_iff.mp hparse
  have word (x : Word32) : BitVec.ofNat 32 (bytesToNumber (bigEndian x.toNat 4)) = x :=
    ofNat_bytesToNumber_bigEndian 32 x (by norm_num)
  rw [headerBytes, bigEndian_txid]
  exact ⟨word _, word _, word _⟩

end Sys2Proof.Machine
end

section
/-! SUPPORT. PARSEHDR and GENHDR on the unit: what each answers, said through its pure function, and the round trip in
command terms (42_header.md R146, R150, R151). -/

namespace Sys2Proof.Machine

/-- PARSEHDR is its function on IN (42_header.md R146). -/
theorem exec_parsehdr (s : State) : exec .parsehdr s = parsehdrWith unitConfig s.mem.bufIn s := rfl

/-- GENHDR ends by writing OUT whole (42_header.md R150). -/
theorem exec_genhdr (s : State) :
    exec .genhdr s = finishWriting unitConfig .bufOut (generateHeader unitConfig (headerOperand s)) s := rfl

/-- A header put into the header registers (42_header.md R146). -/
def takeHeader (s : State) (h : Header) : State :=
  (s.setHeader h.cls h.method h.length (txidWord h.transactionId 0) (txidWord h.transactionId 1)
    (txidWord h.transactionId 2)).setStatus statusOk

/-- GENHDR reads the header that PARSEHDR has taken. -/
theorem headerOperand_takeHeader (s : State) (h : Header) : headerOperand (takeHeader s h) = h := by
  have hid : (takeHeader s h).txid = h.transactionId := txidWord_append_txidWord h.transactionId
  rw [headerOperand, hid]
  rfl

/-- Taking the header that the registers hold changes STATUS alone. -/
theorem takeHeader_headerOperand (s : State) : takeHeader s (headerOperand s) = s.setStatus statusOk := by
  obtain ⟨h0, h1, h2⟩ := txidWord_append s.hTxid0 s.hTxid1 s.hTxid2
  have hid : (headerOperand s).transactionId = s.hTxid0 ++ s.hTxid1 ++ s.hTxid2 := rfl
  rw [takeHeader, hid, h0, h1, h2]
  rfl

section
variable {s : State} {h : Header} {bytes : List Byte} {e : Err}

/-- PARSEHDR of a window that parses takes the header. -/
theorem execParsehdr_of_ok (hparse : parseHeader unitConfig s.mem.bufIn = .ok h) :
    exec .parsehdr s = .next (takeHeader s h) := by
  obtain ⟨h0, h1, h2⟩ := field_txidWords hparse
  rw [exec_parsehdr, parsehdrWith_ok s hparse, h0, h1, h2]
  rfl

/-- PARSEHDR of a window that parses to the header the registers hold leaves them as they are. -/
theorem execParsehdr_of_registers (hparse : parseHeader unitConfig s.mem.bufIn = .ok (headerOperand s)) :
    exec .parsehdr s = .next (s.setStatus statusOk) := by
  rw [execParsehdr_of_ok hparse, takeHeader_headerOperand]

/-- PARSEHDR of a window that does not parse changes STATUS alone. -/
theorem execParsehdr_of_error (hparse : parseHeader unitConfig s.mem.bufIn = .error e) :
    exec .parsehdr s = .next (errorState s (errCode e)) :=
  parsehdrWith_error s hparse

/-- GENHDR of a header that generates writes OUT. -/
theorem execGenhdr_of_ok (hgenerate : generateHeader unitConfig (headerOperand s) = .ok bytes) :
    exec .genhdr s = .next (outWritten s bytes) := by
  have hfit : bytes.length ≤ unitConfig.outCap := generateHeader_length hgenerate ▸ by decide
  rw [exec_genhdr, hgenerate]
  exact succeedWriting_fits s hfit

/-- GENHDR of a header that does not generate changes STATUS alone. -/
theorem execGenhdr_of_error (hgenerate : generateHeader unitConfig (headerOperand s) = .error e) :
    exec .genhdr s = .next (errorState s (errCode e)) := by
  rw [exec_genhdr, hgenerate]
  rfl

end

/-! ### PARSEHDR on a header window -/

/-- Under the layout RFC the class is bit 0 of the first byte and bit 4 of the second (30_encoding.md R62). -/
theorem unpackType_rfc_cls (b0 b1 : Byte) :
    (unpackType .rfc b0 b1).cls = b0.extractLsb' 0 1 ++ b1.extractLsb' 4 1 := by
  have h0 : (word16 b0 b1).extractLsb' 8 1 = b0.extractLsb' 0 1 := by
    ext i hi
    simp [word16_getLsbD]
  have h1 : (word16 b0 b1).extractLsb' 4 1 = b1.extractLsb' 4 1 := by
    ext i hi
    simp [word16_getLsbD, show 4 + i < 8 by omega]
  rw [unpackType_eq_gatherType, gatherType_rfc_eq_slices, h0, h1]

/-- Under the layout RFC the masked match singles out the types with reserved bits zero and the method Binding
(30_encoding.md R67). -/
theorem mask_word16_eq_one_iff (b0 b1 : Byte) :
    word16 b0 b1 &&& 0xFEEF#16 = 0x0001#16 ↔
      b0.extractLsb' 6 2 = 0#2 ∧ (unpackType .rfc b0 b1).method = methodBinding := by
  rw [mask_eq_one_iff, ← unpackType_reserved .rfc b0 b1]
  simp only [← gatherType_eq_iff, ← unpackType_eq_gatherType]
  constructor
  · rintro ⟨cls, h⟩
    simp [h]
  · rintro ⟨hreserved, hmethod⟩
    exact ⟨_, by rw [← hreserved, ← hmethod]⟩

/-- Settles O4: by what `parseHeader` answers on a short window, on a wrong cookie and on a header window. -/
theorem parsehdrTakesTheHeaderOrRaisesItsFirstError :
    Obligations.ParsehdrTakesTheHeaderOrRaisesItsFirstError := by
  unfold Obligations.ParsehdrTakesTheHeaderOrRaisesItsFirstError
  intro s
  refine ⟨?taken, ?short, ?badCookie, ?reservedBits, ?unsupMethod⟩
  case taken =>
    intro b0 b1 l0 l1 t rest hin hmask
    obtain ⟨hreserved, hmethod⟩ := (mask_word16_eq_one_iff b0 b1).mp hmask
    rw [exec_parsehdr, hin, ← unpackType_rfc_cls]
    apply parsehdrWith_headerWindow_binding
    rw [← hreserved, ← unpackType_reserved .rfc b0 b1, ← hmethod]
    rfl
  case short => exact fun hshort => execParsehdr_of_error (parseHeader_short _ hshort)
  case badCookie => exact fun hlong hcookie => execParsehdr_of_error (parseHeader_badCookie _ hlong hcookie)
  case reservedBits =>
    intro b0 b1 l0 l1 t rest hin hreserved
    apply execParsehdr_of_error (e := .reservedBits)
    rw [hin, parseHeader_headerWindow, if_pos (by rwa [unpackType_reserved])]
  case unsupMethod =>
    intro b0 b1 l0 l1 t rest hin hreserved hmask
    have hmethod : (unpackType unitConfig.typeLayout b0 b1).method ≠ methodBinding := fun h =>
      hmask ((mask_word16_eq_one_iff b0 b1).mpr ⟨hreserved, h⟩)
    apply execParsehdr_of_error (e := .unsupMethod)
    rw [hin, parseHeader_headerWindow, if_neg (by simp [unpackType_reserved, hreserved]), if_pos hmethod]

/-! ### GENHDR -/

/-- The message-type bytes of a Binding header under the layout RFC (30_encoding.md R63). -/
theorem fieldBytes_scatterType_binding (cls : ClassCode) :
    fieldBytes (scatterType .rfc cls methodBinding) =
      [0#7 ++ cls.extractLsb' 1 1, 0#3 ++ cls.extractLsb' 0 1 ++ 1#4] := by
  revert cls
  decide

/-- The three words that GENHDR emits are the id registers (42_header.md R148). -/
theorem bigEndian_txid_registers (s : State) :
    bigEndian s.txid.toNat 12 =
      bigEndian s.hTxid0.toNat 4 ++ bigEndian s.hTxid1.toNat 4 ++ bigEndian s.hTxid2.toNat 4 := by
  obtain ⟨h0, h1, h2⟩ := txidWord_append s.hTxid0 s.hTxid1 s.hTxid2
  rw [bigEndian_txid, State.txid, h0, h1, h2]

/-- Settles O5: a Binding header generates its bytes, another none. -/
theorem genhdrBuildsTheHeaderOrRaises : Obligations.GenhdrBuildsTheHeaderOrRaises := by
  unfold Obligations.GenhdrBuildsTheHeaderOrRaises
  refine fun s => ⟨fun hmethod => ?_, fun hmethod => execGenhdr_of_error (generateHeader_otherMethod _ hmethod)⟩
  have hmethod : s.hMethod = methodBinding := hmethod
  have hbytes : headerBytes unitConfig.typeLayout (headerOperand s) =
      fieldBytes (scatterType .rfc s.hClass s.hMethod) ++ fieldBytes s.hLength ++ magicBytes ++
        bigEndian s.txid.toNat 12 := rfl
  rw [hmethod, fieldBytes_scatterType_binding, fieldBytes_eq, bigEndian_txid_registers, bigEndian_word32,
    bigEndian_word32, bigEndian_word32] at hbytes
  rw [execGenhdr_of_ok (generateHeader_of_binding _ hmethod), hbytes]
  rfl

/-! ### The round trip -/

/-- Where PARSEHDR ends with `OK`, IN parses to the header that the registers then hold. -/
theorem parseHeader_of_execParsehdr {s t : State} (h : exec .parsehdr s = .next t) (hok : t.status = 0x00#8) :
    parseHeader unitConfig s.mem.bufIn = .ok (headerOperand t) := by
  cases hparse : parseHeader unitConfig s.mem.bufIn with
  | error e =>
    cases (execParsehdr_of_error hparse).symm.trans h
    exact absurd hok (errCode_ne_ok e)
  | ok header =>
    cases (execParsehdr_of_ok hparse).symm.trans h
    rw [headerOperand_takeHeader]

/-- Settles O55: the round trip of the pure functions, carried out by the two commands. -/
theorem headerRoundTripsOnTheUnit : Obligations.HeaderRoundTripsOnTheUnit := by
  unfold Obligations.HeaderRoundTripsOnTheUnit
  refine fun s => ⟨fun hmethod => ?_, fun t hlength h hok => ?_⟩
  · have hgenerate := generateHeader_of_binding unitConfig (h := headerOperand s) hmethod
    exact ⟨_, execGenhdr_of_ok hgenerate,
      execParsehdr_of_registers (s := (outWritten s _).setBuffer .bufIn _) (parseHeader_of_generateHeader hgenerate)⟩
  · exact execGenhdr_of_ok (generateHeader_of_parseHeader hlength (parseHeader_of_execParsehdr h hok))

end Sys2Proof.Machine
end

section
/-! SUPPORT. The attribute walk (43_message_flow.md R164): one turn of the pure function and of the host's loop, the
walk over generated attributes by induction on the list, and the loop against the function by induction on the turns. -/

namespace Sys2Proof.Machine

/-! ### One turn of the pure walk -/

/-- The walk over an empty body finds nothing, whatever the bound. -/
@[simp] theorem walkFrom_nil (c : Config) (turns : Nat) :
    walkFrom c turns [] = { attributes := [], error := none } := by
  cases turns <;> rfl

/-- The empty body is no attribute window. -/
theorem ne_nil_of_parseAttribute {c : Config} {body : List Byte} {a : Attribute}
    (h : parseAttribute c body = .ok a) : body ≠ [] := by
  rintro rfl
  rw [parseAttribute_short c (by decide)] at h
  cases h

/-- A turn at a window that does not parse ends the walk. -/
theorem walkFrom_of_error {c : Config} {body : List Byte} {e : Err} (turns : Nat) (hbody : body ≠ [])
    (h : parseAttribute c body = .error e) :
    walkFrom c (turns + 1) body = { attributes := [], error := some e } := by
  rw [walkFrom, if_neg hbody, h]

/-- A turn at a window that parses takes the attribute and goes on after its padding. -/
theorem walkFrom_of_ok {c : Config} {body : List Byte} {a : Attribute} (turns : Nat)
    (h : parseAttribute c body = .ok a) :
    walkFrom c (turns + 1) body =
      { attributes := a :: (walkFrom c turns (body.drop (attributeAdvance a.length.toNat))).attributes
        error := (walkFrom c turns (body.drop (attributeAdvance a.length.toNat))).error } := by
  rw [walkFrom, if_neg (ne_nil_of_parseAttribute h), h]

/-! ### The walk over generated attributes -/

/-- What a generated attribute consists of (41_attribute.md R115). -/
theorem generateAttribute_eq_ok_iff {c : Config} {a : Attribute} {bytes : List Byte} :
    generateAttribute c a = .ok bytes ↔
      a.value.length = a.length.toNat ∧ ∃ code, codeForName c.registry a.name = some code ∧
        bytes = fieldBytes code ++ fieldBytes a.length ++ a.value ++
          List.replicate (padCount a.length.toNat) 0x00#8 := by
  constructor
  · intro h
    obtain ⟨hvalue, -⟩ := generateAttribute_length h
    cases hcode : codeForName c.registry a.name with
    | none => cases (generateAttribute_unknownName hvalue hcode).symm.trans h
    | some code =>
      cases (generateAttribute_of_code hvalue hcode).symm.trans h
      exact ⟨hvalue, code, rfl, rfl⟩
  · rintro ⟨hvalue, code, hcode, rfl⟩
    exact generateAttribute_of_code hvalue hcode

/-- A generated attribute parses back whatever follows it. -/
theorem parseAttribute_generated_append {c : Config} (hc : registryAdmissible c.registry = true) {a : Attribute}
    {bytes : List Byte} (h : generateAttribute c a = .ok bytes) (rest : List Byte) :
    parseAttribute c (bytes ++ rest) = .ok a := by
  obtain ⟨hvalue, code, hcode, rfl⟩ := generateAttribute_eq_ok_iff.mp h
  exact parseAttribute_eq_ok_iff.mpr
    ⟨hvalue, code, _, (codeForName_eq_some_iff_nameForCode hc).mp hcode, List.append_assoc _ _ _⟩

/-- A generated attribute is as long as the walk advances past it (30_encoding.md R74). -/
theorem generateAttribute_length_eq_advance {c : Config} {a : Attribute} {bytes : List Byte}
    (h : generateAttribute c a = .ok bytes) : bytes.length = attributeAdvance a.length.toNat :=
  (generateAttribute_length h).2

/-- Enough turns over generated attributes find exactly them. -/
theorem walkFrom_flatten {c : Config} (hc : registryAdmissible c.registry = true) {attributes : List Attribute}
    {encodings : List (List Byte)} (h : attributes.map (generateAttribute c) = encodings.map .ok) {turns : Nat}
    (hturns : encodings.flatten.length ≤ turns) :
    walkFrom c turns encodings.flatten = { attributes := attributes, error := none } := by
  induction attributes generalizing encodings turns with
  | nil =>
    obtain rfl : encodings = [] := List.map_eq_nil_iff.mp h.symm
    exact walkFrom_nil c turns
  | cons a attributes ih =>
    cases encodings with
    | nil => cases h
    | cons bytes encodings =>
      obtain ⟨hgenerate, htail⟩ := List.cons.inj h
      have hlength := generateAttribute_length_eq_advance hgenerate
      rw [List.flatten_cons, List.length_append, hlength, attributeAdvance, tlvHdrLen] at hturns
      obtain ⟨turns, rfl⟩ := Nat.exists_eq_add_one_of_ne_zero (show turns ≠ 0 by omega)
      rw [List.flatten_cons, walkFrom_of_ok turns (parseAttribute_generated_append hc hgenerate _), ← hlength,
        List.drop_left, ih htail (by omega)]

/-- Settles O58, by induction on the attributes: each parses back with the rest of the body after it, and the walk
advances by its length. -/
theorem walkFindsTheAttributesGenerated : Obligations.WalkFindsTheAttributesGenerated := by
  unfold Obligations.WalkFindsTheAttributesGenerated
  exact fun c attributes encodings hc h => walkFrom_flatten hc h le_rfl

/-! ### One turn of the host's loop -/

/-- The host's loop over an empty body issues nothing, whatever the bound. -/
@[simp] theorem walkByCommands_nil (turns : Nat) (s : State) : walkByCommands turns [] s = some ([], s) := by
  cases turns <;> rfl

/-- The state after a turn of the host at a window that parses. -/
def turnTaken (s : State) (body : List Byte) (a : Attribute) : State :=
  (valWritten (s.setBuffer .bufIn body) a.value).setAttribute a.name a.length

section
variable {s : State} {body : List Byte} (hfit : body.length ≤ 65540)
include hfit

/-- The load of a turn is within IN's capacity. -/
theorem perform_load_bufIn : perform (.load .bufIn body) s = .next (s.setBuffer .bufIn body) :=
  hostLoad_fits s (by decide) hfit

/-- A turn of the host at a window that does not parse ends the loop with the error in STATUS. -/
theorem walkByCommands_of_error {e : Err} (turns : Nat) (hbody : body ≠ [])
    (h : parseAttribute unitConfig body = .error e) :
    walkByCommands (turns + 1) body s = some ([], errorState (s.setBuffer .bufIn body) (errCode e)) := by
  have hcmd : perform (.cmd 0x03#8) (s.setBuffer .bufIn body) =
      .next (errorState (s.setBuffer .bufIn body) (errCode e)) := execParseattr_of_error h
  simp only [walkByCommands, if_neg hbody, perform_load_bufIn hfit, hcmd]
  exact if_neg (errCode_ne_ok e)

/-- A turn of the host at a window that parses sees the attribute and goes on, STATUS being `OK`, after its padding. -/
theorem walkByCommands_of_ok {a : Attribute} {turns : Nat} {seen : List Attribute} {t : State}
    (h : parseAttribute unitConfig body = .ok a)
    (hloop : walkByCommands turns (body.drop (attributeAdvance a.length.toNat)) (turnTaken s body a) =
      some (seen, t)) :
    walkByCommands (turns + 1) body s = some (a :: seen, t) := by
  have hcmd : perform (.cmd 0x03#8) (s.setBuffer .bufIn body) = .next (turnTaken s body a) := execParseattr_of_ok h
  have hok : (turnTaken s body a).status = statusOk := rfl
  have hlength : (turnTaken s body a).aLength = a.length := rfl
  have hseen : attributeOperand (turnTaken s body a) = a := rfl
  simp only [walkByCommands, if_neg (ne_nil_of_parseAttribute h), perform_load_bufIn hfit, hcmd, if_pos hok, hlength,
    hloop, hseen]

end

/-! ### The host's loop is the pure walk -/

/-- STATUS after a flow that ended with this error, or with none (60_exceptions.md R171). -/
def endStatus : Option Err → Byte
  | none => statusOk
  | some e => errCode e

/-- The host's loop sees the attributes of the pure walk and ends with its error in STATUS, once a command has been
issued or is about to be: with no turn left the state is the one the last command has left. -/
theorem walkByCommands_eq_walkFrom {turns : Nat} {body : List Byte} {s : State} (hfit : body.length ≤ 65540)
    (hstart : s.status = statusOk ∨ (body ≠ [] ∧ turns ≠ 0)) :
    ∃ t, walkByCommands turns body s = some ((walkFrom unitConfig turns body).attributes, t) ∧
      t.status = endStatus (walkFrom unitConfig turns body).error := by
  induction turns generalizing body s with
  | zero => exact ⟨s, rfl, hstart.resolve_right fun h => h.2 rfl⟩
  | succ turns ih =>
    by_cases hbody : body = []
    · subst hbody
      exact ⟨s, by simp, by simpa [endStatus] using hstart⟩
    · cases hparse : parseAttribute unitConfig body with
      | error e =>
        rw [walkByCommands_of_error hfit turns hbody hparse, walkFrom_of_error turns hbody hparse]
        exact ⟨_, rfl, rfl⟩
      | ok a =>
        have hrest : (body.drop (attributeAdvance a.length.toNat)).length ≤ 65540 :=
          (List.drop_sublist _ _).length_le.trans hfit
        obtain ⟨t, hloop, hstatus⟩ := ih (s := turnTaken s body a) hrest (.inl rfl)
        rw [walkFrom_of_ok turns hparse]
        exact ⟨t, walkByCommands_of_ok hfit hparse hloop, hstatus⟩

/-- Settles O59: the loop and the pure walk take the same turns, as many as the body has bytes. -/
theorem walkOnTheUnitIsTheWalk : Obligations.WalkOnTheUnitIsTheWalk := by
  unfold Obligations.WalkOnTheUnitIsTheWalk
  intro s body hfit hbody
  obtain ⟨t, hloop, hstatus⟩ := walkByCommands_eq_walkFrom (s := s) hfit
    (.inr ⟨hbody, mt List.length_eq_zero_iff.mp hbody⟩)
  refine ⟨t, hloop, ?_⟩
  rw [walkAttributes, hstatus]
  cases (walkFrom unitConfig body.length body).error <;> rfl

end Sys2Proof.Machine
end

section
/-! SUPPORT. Runs of the host's script: steps one after another with what the host reads in them, and the three rules of
such runs that a flow of commands is made of: a host write or load, a command that is checked, a buffer read
(30_encoding.md R81). -/

namespace Sys2Proof.Machine

/-- A run of `m + n` steps goes on for `n` steps where its first `m` end. -/
theorem run_add (M : Host.Core) {m : Nat} (n : Nat) {s t : M.State} (h : M.run m s = .next t) :
    M.run (m + n) s = M.run n t := by
  induction m generalizing s with
  | zero =>
    cases h
    rw [Nat.zero_add]
  | succ m ih =>
    rw [Nat.add_right_comm]
    rw [Host.Core.run] at h ⊢
    cases hstep : M.step s with
    | next u =>
      rw [hstep] at h
      exact ih h
    | fault r => simp [hstep] at h
    | refused r => simp [hstep] at h

/-- `n` steps lead from `s` to `t`, and in them the host reads `seen`. -/
structure Leads (n : Nat) (s t : State) (seen : List Observation) : Prop where
  run : Host.Core.run core n s = .next t
  observed : t.observed = s.observed ++ seen

/-- Runs one after another are a run, and what the host reads in them is joined. -/
theorem Leads.trans {m n : Nat} {s t u : State} {seen seen' : List Observation} (h : Leads m s t seen)
    (h' : Leads n t u seen') : Leads (m + n) s u (seen ++ seen') where
  run := (run_add core n h.run).trans h'.run
  observed := by rw [h'.observed, h.observed, List.append_assoc]

/-- With no action pending any number of steps leads nowhere (10_state.md R12). -/
theorem leads_of_no_script {s : State} (hs : s.script = []) (n : Nat) : Leads n s s [] where
  run := by
    induction n with
    | zero => rfl
    | succ n ih => rw [run_succ core n s s (step_nil hs), ih]
  observed := (List.append_nil _).symm

/-- One step performs the next action. -/
theorem leads_perform {s t : State} {a : HostAction} {rest : List HostAction} {seen : List Observation}
    (hs : s.script = a :: rest) (h : perform a (s.setScript rest) = .next t)
    (hseen : t.observed = s.observed ++ seen) : Leads 1 s t seen where
  run := run_succ core 0 s t ((step_cons hs).trans h)
  observed := hseen

section
variable {s : State} {rest : List HostAction}

/-- A host write of a register within its width reads nothing. -/
theorem leads_set {t : State} {r : Reg} {value : Nat} (hs : s.script = .set r value :: rest) (hr : r ≠ .cmd)
    (hwrite : writeReg (s.setScript rest) value r = some t) (hfit : value < 2 ^ regWidth r) : Leads 1 s t [] := by
  obtain ⟨-, -, -, hobserved⟩ := writeReg_frame hwrite
  refine leads_perform hs ?_ (hobserved.trans (List.append_nil _).symm)
  rw [perform, hostWrite_eq_hostSet hr]
  exact hostSet_fits hwrite hfit

/-- A load within the capacity reads nothing. -/
theorem leads_load {b : Buf} {bytes : List Byte} (hs : s.script = .load b bytes :: rest) (hb : b ≠ .bufOut)
    (hfit : bytes.length ≤ capacity unitConfig b) : Leads 1 s ((s.setScript rest).setBuffer b bytes) [] :=
  leads_perform hs (hostLoad_fits _ hb hfit) (List.append_nil _).symm

/-- No command touches the host's side (10_state.md R33). -/
theorem exec_keeps_host {i : Instr} {t : State} (h : exec i s = .next t) :
    t.script = s.script ∧ t.observed = s.observed := by
  rcases exec_next h with ⟨e, -, rfl⟩ | ⟨cls, method, length, a, b, d, rfl⟩ | ⟨name, length, value, -, rfl⟩ |
    ⟨value, -, rfl⟩ | ⟨bytes, -, rfl⟩ <;> exact ⟨rfl, rfl⟩

/-- The state after `CHK` of what a command has left, with `rest` to be performed unless STATUS is an error. -/
def checked (rest : List HostAction) (t : State) : State :=
  (t.setScript (if t.status = 0x00#8 then rest else [])).observe (.reg .status t.status.toNat)

/-- A command and the `CHK` after it read STATUS. -/
theorem leads_checked {t : State} {op : Byte} (hs : s.script = .cmd op :: .chk :: rest)
    (h : exec (commandOf op) (s.setScript (.chk :: rest)) = .next t) :
    Leads 2 s (checked rest t) [.reg .status t.status.toNat] := by
  obtain ⟨hscript, hobserved⟩ := exec_keeps_host h
  have hcommand : Leads 1 s t [] := leads_perform hs h (hobserved.trans (List.append_nil _).symm)
  exact hcommand.trans (leads_perform hscript (hostCheck_eq _) rfl)

/-- A generator, the `CHK` after it and the reading of OUT read the bytes generated. -/
theorem leads_generated {op : Byte} {bytes : List Byte} (hs : s.script = .cmd op :: .chk :: .rdbuf .bufOut :: rest)
    (h : exec (commandOf op) (s.setScript (.chk :: .rdbuf .bufOut :: rest)) =
      .next (outWritten (s.setScript (.chk :: .rdbuf .bufOut :: rest)) bytes)) :
    ∃ t, Leads 3 s t [.reg .status 0, .buffer .bufOut bytes.length bytes] ∧ t.script = rest ∧
      t.status = statusOk ∧ headerOperand t = headerOperand s :=
  ⟨_, (leads_checked hs h).trans (leads_perform rfl rfl rfl), rfl, rfl, rfl⟩

end

/-! ### Runs to the end of the script -/

theorem outReadings_append (seen seen' : List Observation) :
    outReadings (seen ++ seen') = outReadings seen ++ outReadings seen' := by
  induction seen with
  | nil => rfl
  | cons o seen ih =>
    rcases o with _ | ⟨_ | _ | _ | _⟩ | _ <;> simp [outReadings, ih]

/-- The host's script ends within `n` steps with this STATUS, and in them the host reads these contents of OUT. -/
def ScriptEnds (n : Nat) (s : State) (status : Byte) (readings : List (List Byte)) : Prop :=
  ∃ t seen, Leads n s t seen ∧ t.script = [] ∧ t.status = status ∧ outReadings seen = readings

section
variable {m n : Nat} {s t : State} {seen : List Observation} {status : Byte} {readings : List (List Byte)}

/-- A run before the end of the script adds its steps and what it reads from OUT. -/
theorem Leads.scriptEnds (hlead : Leads m s t seen) (h : ScriptEnds n t status readings) :
    ScriptEnds (m + n) s status (outReadings seen ++ readings) := by
  obtain ⟨u, seen', hrun, hscript, hstatus, hreadings⟩ := h
  exact ⟨u, _, hlead.trans hrun, hscript, hstatus, by rw [outReadings_append, hreadings]⟩

/-- A script that has ended stays ended. -/
theorem ScriptEnds.of_le (h : ScriptEnds n s status readings) (hle : n ≤ m) : ScriptEnds m s status readings := by
  obtain ⟨t, seen, hrun, hscript, hstatus, hreadings⟩ := h
  have hwait := hrun.trans (leads_of_no_script hscript (m - n))
  rw [Nat.add_sub_cancel' hle, List.append_nil] at hwait
  exact ⟨t, seen, hwait, hscript, hstatus, hreadings⟩

/-- A command that raises an error ends the script at the `CHK` after it. -/
theorem scriptEnds_of_error {u : State} {op : Byte} {rest : List HostAction} {e : Err}
    (hs : s.script = .cmd op :: .chk :: rest)
    (h : exec (commandOf op) (s.setScript (.chk :: rest)) = .next (errorState u (errCode e))) :
    ScriptEnds 2 s (errCode e) [] :=
  ⟨_, _, leads_checked hs h, if_neg (errCode_ne_ok e), rfl, rfl⟩

end

end Sys2Proof.Machine
end

section
/-! SUPPORT. The Binding response (43_message_flow.md R161 to R163): the pure function, the four parts of the host's
script (parse the request, generate the address value, the attribute, the header), and their composition. -/

namespace Sys2Proof.Machine

/-! ### The pure function -/

section
variable {c : Config} {datagram : List Byte} {addr : TransportAddress}

theorem bindingResponse_of_header_error {e : Err} (hparse : parseHeader c datagram = .error e) :
    bindingResponse c datagram addr = .error e := by
  rw [bindingResponse, hparse]
  rfl

theorem bindingResponse_of_address_error {h : Header} {e : Err} (hparse : parseHeader c datagram = .ok h)
    (hxma : generateXorMappedAddress addr = .error e) : bindingResponse c datagram addr = .error e := by
  rw [bindingResponse, hparse, hxma]
  rfl

/-- The header of the response to a request (43_message_flow.md R161, R165). -/
def responseHeader (h : Header) : Header :=
  { cls := 0b10#2, method := h.method, length := responseLength, transactionId := h.transactionId }

/-- The attribute of the response, for an XOR-MAPPED-ADDRESS value (43_message_flow.md R161). -/
def responseAttribute (xma : List Byte) : Attribute := { name := 7#4, length := 8#16, value := xma }

theorem bindingResponse_of_ok {h : Header} {xma attr hdr : List Byte} (hparse : parseHeader c datagram = .ok h)
    (hxma : generateXorMappedAddress addr = .ok xma) (hattr : generateAttribute c (responseAttribute xma) = .ok attr)
    (hhdr : generateHeader c (responseHeader h) = .ok hdr) : bindingResponse c datagram addr = .ok (hdr ++ attr) := by
  rw [responseAttribute] at hattr
  rw [responseHeader] at hhdr
  simp only [bindingResponse, hparse, hxma, hattr, hhdr, bind, Except.bind]

end

/-- The attribute of the response always generates, into twelve bytes (43_message_flow.md R165). -/
theorem exists_responseAttribute {addr : TransportAddress} {xma : List Byte}
    (hxma : generateXorMappedAddress addr = .ok xma) :
    ∃ attr, generateAttribute unitConfig (responseAttribute xma) = .ok attr ∧ attr.length = 12 := by
  obtain ⟨code, hcode⟩ := exists_codeForName unitConfig_admissible (name := 7#4) (by decide)
  have hgenerate := generateAttribute_of_code (a := responseAttribute xma) (generateXorMappedAddress_length hxma) hcode
  obtain ⟨-, hlength⟩ := generateAttribute_length hgenerate
  rw [show (responseAttribute xma).length.toNat = 8 from rfl] at hlength
  exact ⟨_, hgenerate, hlength⟩

/-- The header of the response always generates. -/
theorem exists_responseHeader {c : Config} {datagram : List Byte} {h : Header}
    (hparse : parseHeader c datagram = .ok h) : ∃ hdr, generateHeader c (responseHeader h) = .ok hdr := by
  have hmethod := parseHeader_ok_method hparse
  exact ⟨_, generateHeader_of_binding c (h := responseHeader h) hmethod⟩

/-! ### The parts of the script -/

section
variable {s : State} {rest : List HostAction}

/-- The request loaded by the host (42_header.md R146). -/
def requestLoaded (s : State) (datagram : List Byte) (actions : List HostAction) : State :=
  (s.setScript actions).setBuffer .bufIn datagram

section
variable {datagram : List Byte} (hs : s.script = .load .bufIn datagram :: .cmd 0x01#8 :: .chk :: rest)
  (hfit : datagram.length ≤ 65540)
include hs hfit

/-- The first part takes the request's header. -/
theorem leads_parseRequest {h : Header} (hparse : parseHeader unitConfig datagram = .ok h) :
    ∃ t, Leads 3 s t [.reg .status 0] ∧ t.script = rest ∧ headerOperand t = h := by
  have hload := leads_load hs (by decide) hfit
  have hexec := execParsehdr_of_ok (s := requestLoaded s datagram (.chk :: rest)) hparse
  have hheader := headerOperand_takeHeader (requestLoaded s datagram (.chk :: rest)) h
  exact ⟨_, hload.trans (leads_checked rfl hexec), rfl, hheader⟩

/-- The first part ends the script where the request does not parse. -/
theorem scriptEnds_parseRequest {e : Err} (hparse : parseHeader unitConfig datagram = .error e) :
    ScriptEnds 3 s (errCode e) [] := by
  have hload := leads_load hs (by decide) hfit
  have hexec := execParsehdr_of_error (s := requestLoaded s datagram (.chk :: rest)) hparse
  exact hload.scriptEnds (scriptEnds_of_error rfl hexec)

end

/-- The operands of GENXMA written by the host (41_attribute.md R120). -/
def addressLoaded (s : State) (addr : TransportAddress) (actions : List HostAction) : State :=
  { s with
    xFamily := BitVec.ofNat 1 (familyBit addr.family)
    xPort := BitVec.ofNat 16 addr.port.toNat
    mem := { s.mem with bufXaddr := addr.address }
    script := actions }

/-- GENXMA reads the address that the host has written. -/
theorem addressOperand_addressLoaded (s : State) (addr : TransportAddress) (actions : List HostAction) :
    addressOperand (addressLoaded s addr actions) = addr := by
  have hfamily : familyOf (BitVec.ofNat 1 (familyBit addr.family)) = addr.family := by
    cases addr.family <;> rfl
  have hport : BitVec.ofNat 16 addr.port.toNat = addr.port := by simp
  rw [addressOperand, addressLoaded, hfamily, hport]

section
variable {addr : TransportAddress} {actions : List HostAction}
  (hs : s.script = .set .xFamily (familyBit addr.family) :: .load .bufXaddr addr.address ::
    .set .xPort addr.port.toNat :: actions)
  (hfit : addr.address.length ≤ 15)
include hs hfit

/-- The host writes the address. -/
theorem leads_loadAddress : Leads 3 s (addressLoaded s addr actions) [] := by
  have hfamily : familyBit addr.family < 2 ^ regWidth .xFamily := by cases addr.family <;> decide
  exact ((leads_set hs (by decide) rfl hfamily).trans (leads_load rfl (by decide) hfit)).trans
    (leads_set rfl (by decide) rfl addr.port.isLt)

/-- The second part leaves the address value in VAL. -/
theorem leads_generateAddress {xma : List Byte} (hactions : actions = .cmd 0x05#8 :: .chk :: rest)
    (hxma : generateXorMappedAddress addr = .ok xma) :
    ∃ t, Leads 5 s t [.reg .status 0] ∧ t.script = rest ∧ t.mem.bufVal = xma ∧
      headerOperand t = headerOperand s := by
  subst hactions
  rw [← addressOperand_addressLoaded s addr (.chk :: rest)] at hxma
  exact ⟨_, (leads_loadAddress hs hfit).trans (leads_checked rfl (execGenxma_of_ok hxma)), rfl, rfl, rfl⟩

/-- The second part ends the script where the address value does not generate. -/
theorem scriptEnds_generateAddress {e : Err} (hactions : actions = .cmd 0x05#8 :: .chk :: rest)
    (hxma : generateXorMappedAddress addr = .error e) : ScriptEnds 5 s (errCode e) [] := by
  subst hactions
  rw [← addressOperand_addressLoaded s addr (.chk :: rest)] at hxma
  exact (leads_loadAddress hs hfit).scriptEnds (scriptEnds_of_error rfl (execGenxma_of_error hxma))

end

/-- The type and length of the response's attribute written by the host (30_encoding.md R82). -/
def attributeDeclared (s : State) (actions : List HostAction) : State := (s.setScript actions).setAttribute 7#4 8#16

/-- The third part reads the attribute of the value in VAL. -/
theorem leads_generateAttribute {attr : List Byte}
    (hs : s.script = .set .aType 7 :: .set .aLength 8 :: .cmd 0x04#8 :: .chk :: .rdbuf .bufOut :: rest)
    (hattr : generateAttribute unitConfig (responseAttribute s.mem.bufVal) = .ok attr) :
    ∃ t, Leads 5 s t [.reg .status 0, .buffer .bufOut attr.length attr] ∧ t.script = rest ∧
      headerOperand t = headerOperand s := by
  have hset := (leads_set hs (by decide) rfl (by decide)).trans (leads_set rfl (by decide) rfl (by decide))
  have hexec := execGenattr_of_ok (s := attributeDeclared s (.chk :: .rdbuf .bufOut :: rest)) hattr
  obtain ⟨t, hgenerated, hscript, -, hheader⟩ :=
    leads_generated (s := attributeDeclared s (.cmd 0x04#8 :: _)) rfl hexec
  exact ⟨t, hset.trans hgenerated, hscript, hheader⟩

/-- The header registers after `MKRESP` (30_encoding.md R82; 43_message_flow.md R165). -/
def responseDeclared (s : State) (actions : List HostAction) : State :=
  { s with hClass := 0b10#2, hLength := responseLength, script := actions }

/-- The fourth part reads the header of the response to the request in the header registers. -/
theorem scriptEnds_generateHeader {hdr : List Byte}
    (hs : s.script = mkResp ++ [.cmd 0x02#8, .chk, .rdbuf .bufOut])
    (hhdr : generateHeader unitConfig (responseHeader (headerOperand s)) = .ok hdr) :
    ScriptEnds 5 s statusOk [hdr] := by
  have hset := (leads_set hs (by decide) rfl (by decide)).trans (leads_set rfl (by decide) rfl (by decide))
  have hexec := execGenhdr_of_ok (s := responseDeclared s [.chk, .rdbuf .bufOut]) hhdr
  obtain ⟨t, hgenerated, hscript, hstatus, -⟩ :=
    leads_generated (s := responseDeclared s (.cmd 0x02#8 :: _)) rfl hexec
  exact ⟨t, _, hset.trans hgenerated, hscript, hstatus, rfl⟩

end

/-! ### The whole script -/

section
variable {s : State} {datagram : List Byte} {addr : TransportAddress}
  (hs : s.script = bindingScript datagram addr) (hdatagram : datagram.length ≤ 65540)
  (haddress : addr.address.length ≤ 15)
include hs hdatagram haddress

/-- Where the pure function fails, the script ends at a `CHK`, nothing read from OUT (43_message_flow.md R163). -/
theorem bindingScript_of_error {e : Err} (h : bindingResponse unitConfig datagram addr = .error e) :
    ScriptEnds 18 s (errCode e) [] := by
  cases hparse : parseHeader unitConfig datagram with
  | error e' =>
    cases (bindingResponse_of_header_error hparse).symm.trans h
    exact (scriptEnds_parseRequest hs hdatagram hparse).of_le (by decide)
  | ok header =>
    obtain ⟨t, hlead, hscript, -⟩ := leads_parseRequest hs hdatagram hparse
    cases hxma : generateXorMappedAddress addr with
    | error e' =>
      cases (bindingResponse_of_address_error hparse hxma).symm.trans h
      exact (hlead.scriptEnds (scriptEnds_generateAddress hscript haddress rfl hxma)).of_le (by decide)
    | ok xma =>
      obtain ⟨attr, hattr, -⟩ := exists_responseAttribute hxma
      obtain ⟨hdr, hhdr⟩ := exists_responseHeader hparse
      cases (bindingResponse_of_ok hparse hxma hattr hhdr).symm.trans h

/-- Where the pure function answers, the host reads the attribute, then the header (43_message_flow.md R162). -/
theorem bindingScript_of_ok {response : List Byte} (h : bindingResponse unitConfig datagram addr = .ok response) :
    ∃ attr hdr, ScriptEnds 18 s statusOk [attr, hdr] ∧ response = hdr ++ attr ∧ response.length = 32 := by
  cases hparse : parseHeader unitConfig datagram with
  | error e => cases (bindingResponse_of_header_error hparse).symm.trans h
  | ok header =>
    cases hxma : generateXorMappedAddress addr with
    | error e => cases (bindingResponse_of_address_error hparse hxma).symm.trans h
    | ok xma =>
      obtain ⟨attr, hattr, hlength⟩ := exists_responseAttribute hxma
      obtain ⟨hdr, hhdr⟩ := exists_responseHeader hparse
      cases (bindingResponse_of_ok hparse hxma hattr hhdr).symm.trans h
      obtain ⟨t, hparsed, htscript, rfl⟩ := leads_parseRequest hs hdatagram hparse
      obtain ⟨u, haddressed, huscript, rfl, hu⟩ := leads_generateAddress htscript haddress rfl hxma
      obtain ⟨v, hattributed, hvscript, hv⟩ := leads_generateAttribute huscript hattr
      rw [← hu, ← hv] at hhdr
      have hended := scriptEnds_generateHeader hvscript hhdr
      refine ⟨attr, hdr, hparsed.scriptEnds (haddressed.scriptEnds (hattributed.scriptEnds hended)), rfl, ?_⟩
      rw [List.length_append, generateHeader_length hhdr, hlength]

end

/-- Settles O57: the four parts of the script, one after another, follow the pure function. -/
theorem bindingScriptYieldsTheBindingResponse : Obligations.BindingScriptYieldsTheBindingResponse := by
  unfold Obligations.BindingScriptYieldsTheBindingResponse
  intro s datagram addr hs hdatagram haddress
  cases h : bindingResponse unitConfig datagram addr with
  | error e =>
    obtain ⟨t, seen, hlead, hscript, hstatus, hreadings⟩ := bindingScript_of_error hs hdatagram haddress h
    exact ⟨t, seen, hlead.run, hscript, hlead.observed, by rw [hostResponse, hreadings], hstatus⟩
  | ok response =>
    obtain ⟨attr, hdr, ⟨t, seen, hlead, hscript, hstatus, hreadings⟩, rfl, hlength⟩ :=
      bindingScript_of_ok hs hdatagram haddress h
    exact ⟨t, seen, hlead.run, hscript, hlead.observed, by rw [hostResponse, hreadings], hlength, hstatus⟩

end Sys2Proof.Machine
end

section
/-! SUPPORT. How a command ends with an error: it changes STATUS alone, and the code it leaves is one of its pure
function's errors; for a 16-bit row, one of those its word leaves possible (60_exceptions.md R172, R175, R176). -/

namespace Sys2Proof.Machine

/-! ### The illegal command -/

/-- The illegal command raises its error in every state (60_exceptions.md R175). -/
theorem exec_illegal (op : Byte) (s : State) : exec (.illegal op) s = .next (errorState s 0x41#8) := rfl

/-- A CMD value that no command has selects the illegal one (30_encoding.md R80). -/
theorem commandOf_eq_illegal {op : Byte} (h : op = 0x00#8 ∨ 7 ≤ op.toNat) : commandOf op = .illegal op := by
  have hwf : (Instr.illegal op).wfIn unitConfig = true := by simpa [Instr.wfIn, BitVec.toNat_eq] using h
  obtain ⟨op', hop'⟩ := exists_commandOf rfl hwf
  have hword : [op'] = [op] := by rw [← (commandOf_spec unitConfig op').1, hop']; rfl
  rwa [List.singleton_inj.mp hword] at hop'

/-- Settles O10: the value selects the illegal command, and the step after it starts from the script that is left. -/
theorem illegalCommandChangesStatusOnly : Obligations.IllegalCommandChangesStatusOnly := by
  unfold Obligations.IllegalCommandChangesStatusOnly
  intro s op hop
  refine ⟨exec_illegal op s, fun rest hs => ⟨?written, ?after⟩⟩
  case written =>
    rw [step_cmd hs, commandOf_eq_illegal hop]
    exact exec_illegal op { s with script := rest }
  case after =>
    rintro a rest' rfl
    exact step_cons rfl

/-! ### An error changes STATUS alone -/

/-- Settles O21: of the five kinds of answer an instruction has, only the raise leaves a STATUS other than `OK`. -/
theorem failingCommandChangesStatusOnly : Obligations.FailingCommandChangesStatusOnly := by
  unfold Obligations.FailingCommandChangesStatusOnly
  intro i s t h hfail
  rcases exec_next h with ⟨e, -, rfl⟩ | ⟨_, _, _, _, _, _, rfl⟩ | ⟨_, _, _, -, rfl⟩ | ⟨_, -, rfl⟩ | ⟨_, -, rfl⟩
  case inl => rfl
  all_goals exact absurd rfl hfail

/-! ### The errors a row's word leaves possible -/

/-- On a window that begins with the message type of a class and a method, `parseHeader` finds the reserved bits zero,
and the method unsupported only if it is not Binding (42_header.md R145). -/
theorem parseHeader_scatterType_error {c : Config} {cls : ClassCode} {method : MethodCode} {rest : List Byte} {e : Err}
    (h : parseHeader c (fieldBytes (scatterType c.typeLayout cls method) ++ rest) = .error e) :
    e ∈ [Err.shortHdr, .badCookie] ∨ (e = .unsupMethod ∧ method ≠ methodBinding) := by
  rw [fieldBytes_eq] at h
  simp only [parseHeader, List.cons_append, List.nil_append, List.getD_cons_zero, List.getD_cons_succ,
    unpackType_scatterType] at h
  split_ifs at h with hshort hcookie hreserved hmethod
  · cases h; exact .inl (by decide)
  · cases h; exact .inl (by decide)
  · exact absurd rfl hreserved
  · cases h; exact .inr ⟨rfl, hmethod⟩

/-- The type field of a window that begins with a code is that code. -/
theorem field_fieldBytes_append (code : Word16) (rest : List Byte) :
    field (fieldBytes code ++ rest) 0 2 = code.toNat := by
  rw [fieldBytes_eq]
  exact (bytesToNumber_pair _ _).trans (congrArg BitVec.toNat (word16_halves code))

/-- On a window that begins with a code the registry holds, `parseAttribute` fails by truncation only (41_attribute.md
R113). -/
theorem parseAttribute_known_error {c : Config} {code : Word16} {name : NameId} {rest : List Byte} {e : Err}
    (hname : nameForCode c.registry code = some name)
    (h : parseAttribute c (fieldBytes code ++ rest) = .error e) : e = .attrTrunc := by
  simp only [parseAttribute, field_fieldBytes_append, BitVec.ofNat_toNat, BitVec.setWidth_eq, hname] at h
  split_ifs at h <;> cases h <;> rfl

/-! ### The codes of a command -/

section
variable {c : Config} {w : List Byte} {s t : State} {errs : List Err}

/-- The code of an error is among the codes of its list. -/
theorem errCode_mem_codes {e : Err} (he : e ∈ errs) : errCode e ∈ 0x00#8 :: errs.map errCode :=
  List.mem_cons_of_mem _ (List.mem_map_of_mem he)

/-- A command that ends with its function's answer leaves `OK` or the code of one of the function's errors. -/
theorem EndsWith.status_mem {α : Type} {r : Except Err α} {written : State → α} (h : EndsWith r written t)
    (herrs : ∀ e, r = .error e → e ∈ errs) : t.status ∈ 0x00#8 :: errs.map errCode := by
  cases r with
  | error e => exact h.symm ▸ errCode_mem_codes (herrs e rfl)
  | ok a => exact h.1.symm ▸ List.mem_cons_self

/-- PARSEHDR on a window leaves `OK` or the code of an error of that window. -/
theorem parsehdrWith_status_mem (herrs : ∀ e, parseHeader c w = .error e → e ∈ errs)
    (h : parsehdrWith c w s = .next t) : t.status ∈ 0x00#8 :: errs.map errCode := by
  rcases parsehdrWith_next c w s with ⟨e, -, hparse, ht⟩ | ⟨_, -, ht⟩ <;> cases ht.symm.trans h
  · exact errCode_mem_codes (herrs e hparse)
  · exact List.mem_cons_self

/-- PARSEATTR on a window leaves `OK` or the code of an error of that window. -/
theorem parseattrWith_status_mem (herrs : ∀ e, parseAttribute c w = .error e → e ∈ errs)
    (h : parseattrWith c w s = .next t) : t.status ∈ 0x00#8 :: errs.map errCode := by
  rcases parseattrWith_next h with ⟨e, -, hparse, rfl⟩ | ⟨_, -, -, rfl⟩
  · exact errCode_mem_codes (herrs e hparse)
  · exact List.mem_cons_self

/-- A message-type word never leaves the code of the reserved bits. -/
theorem headerWord_status_mem {cls : ClassCode} {method : MethodCode} (h : headerWord cls method s = .next t) :
    t.status ∈ 0x00#8 :: [Err.shortHdr, .badCookie, .unsupMethod].map errCode := by
  refine parsehdrWith_status_mem (fun e he => ?_) h
  rcases parseHeader_scatterType_error he with hmem | ⟨rfl, -⟩
  · exact List.mem_append_left [Err.unsupMethod] hmem
  · decide

/-- A message-type word of the method Binding does not leave the code of an unsupported method either. -/
theorem headerWord_binding_status_mem {cls : ClassCode} (h : headerWord cls methodBinding s = .next t) :
    t.status ∈ 0x00#8 :: [Err.shortHdr, .badCookie].map errCode :=
  parsehdrWith_status_mem
    (fun _ he => (parseHeader_scatterType_error he).resolve_right fun hmethod => hmethod.2 rfl) h

/-- The code of a name's row never leaves the code of an unknown type. -/
theorem attributeWord_rowCode_status_mem {name : NameId} (hname : name.toNat ≤ 7)
    (h : attributeWord (rowCode unitConfig name) s = .next t) : t.status ∈ 0x00#8 :: [Err.attrTrunc].map errCode := by
  refine parseattrWith_status_mem (fun e he => List.mem_singleton.mpr ?_) h
  exact parseAttribute_known_error (nameForCode_rowCode unitConfig_admissible hname) he

end

/-- Settles O24, by command: the codes are those of the errors of its pure function. -/
theorem statusAfterACommandIsOneOfItsCodes : Obligations.StatusAfterACommandIsOneOfItsCodes := by
  unfold Obligations.StatusAfterACommandIsOneOfItsCodes
  intro i s t h
  cases i with
  | parsehdr => exact parsehdrWith_status_mem (fun _ => parseHeader_error) h
  | genhdr =>
    exact (execGenhdr_endsWith h).status_mem fun _ he => List.mem_singleton.mpr (generateHeader_error he)
  | parseattr | unknown => exact parseattrWith_status_mem (fun _ => parseAttribute_error) h
  | genattr => exact (execGenattr_endsWith h).status_mem fun _ => generateAttribute_error
  | genxma => exact (execGenxma_endsWith h).status_mem fun _ => generateXorMappedAddress_error
  | rmpad =>
    obtain ⟨-, rfl⟩ := rmpadWith_next h
    rfl
  | illegal op =>
    cases (exec_illegal op s).symm.trans h
    rfl
  | bindingRequest | bindingIndication | bindingSuccess | bindingError => exact headerWord_binding_status_mem h
  | msgtype => exact headerWord_status_mem h
  | mappedAddress | username | messageIntegrity | errorCode | unknownAttributes | realm | nonce | xorMappedAddress =>
    exact attributeWord_rowCode_status_mem (by decide) h

end Sys2Proof.Machine
end

section
/-! SUPPORT. Reset, and that no command is left without an answer: each ends with an error's code or with a result that
fits its buffer (70_reset_and_hazards.md R200, R202, R207; 60_exceptions.md R177). -/

namespace Sys2Proof.Machine

/-! ### Every command answers a next state -/

/-- PARSEHDR answers on every window (42_header.md R146). -/
theorem parsehdrWith_completes (c : Config) (w : List Byte) (s : State) : ∃ t, parsehdrWith c w s = .next t := by
  rcases parsehdrWith_next c w s with ⟨_, -, -, ht⟩ | ⟨_, -, ht⟩
  · exact ⟨_, ht⟩
  · exact ⟨_, ht⟩

/-- PARSEATTR answers on every window: the length field bounds the value by VAL's capacity (20_memory.md R52). -/
theorem parseattrWith_completes (w : List Byte) (s : State) : ∃ t, parseattrWith unitConfig w s = .next t := by
  cases hparse : parseAttribute unitConfig w with
  | error e => exact ⟨_, parseattrWith_error s hparse⟩
  | ok a => exact ⟨_, (parseattrWith_ok s hparse).trans (succeedWriting_fits _ (parseAttribute_fits hparse))⟩

/-- GENHDR answers in every state (42_header.md R150). -/
theorem execGenhdr_completes (s : State) : ∃ t, exec .genhdr s = .next t := by
  cases hgenerate : generateHeader unitConfig (headerOperand s) with
  | error e => exact ⟨_, execGenhdr_of_error hgenerate⟩
  | ok bytes => exact ⟨_, execGenhdr_of_ok hgenerate⟩

/-- GENATTR answers in every state (41_attribute.md R116). -/
theorem execGenattr_completes (s : State) : ∃ t, exec .genattr s = .next t := by
  cases hgenerate : generateAttribute unitConfig (attributeOperand s) with
  | error e => exact ⟨_, execGenattr_of_error hgenerate⟩
  | ok bytes => exact ⟨_, execGenattr_of_ok hgenerate⟩

/-- GENXMA answers in every state (41_attribute.md R120). -/
theorem execGenxma_completes (s : State) : ∃ t, exec .genxma s = .next t := by
  cases hgenerate : generateXorMappedAddress (addressOperand s) with
  | error e => exact ⟨_, execGenxma_of_error hgenerate⟩
  | ok bytes => exact ⟨_, execGenxma_of_ok hgenerate⟩

/-- RMPAD of a value within VAL's capacity writes a value that is no longer (41_attribute.md R123). -/
theorem execRmpad_of_fits {s : State} (hfit : s.mem.bufVal.length ≤ unitConfig.valCap) :
    exec .rmpad s = .next (valWritten s (removePadding s.mem.bufVal)) :=
  succeedWriting_fits s ((removePadding_length s.mem.bufVal).trans hfit)

/-- Settles O23, by command: only RMPAD's result needs the premise, for its length is bounded by VAL's alone. -/
theorem everyCommandCompletes : Obligations.EveryCommandCompletes := by
  unfold Obligations.EveryCommandCompletes
  rintro i s ⟨-, hval, -, -⟩
  cases i with
  | parsehdr | bindingRequest | bindingIndication | bindingSuccess | bindingError | msgtype =>
    exact parsehdrWith_completes unitConfig _ s
  | parseattr | mappedAddress | username | messageIntegrity | errorCode | unknownAttributes | realm | nonce
  | xorMappedAddress | unknown => exact parseattrWith_completes _ s
  | genhdr => exact execGenhdr_completes s
  | genattr => exact execGenattr_completes s
  | genxma => exact execGenxma_completes s
  | rmpad => exact ⟨_, execRmpad_of_fits hval⟩
  | illegal op => exact ⟨_, exec_illegal op s⟩

/-! ### Reset -/

/-- The reset attribute, MAPPED-ADDRESS of length 0, generates its four header bytes (log entry 3). -/
theorem generateAttribute_reset :
    generateAttribute unitConfig (attributeOperand State.reset) = .ok [0x00#8, 0x01#8, 0x00#8, 0x00#8] :=
  generateAttribute_of_code (code := 0x0001#16) rfl rfl

/-- Settles O2: the reset IN is too short for either parser, the reset method is not Binding, the reset string is no
dotted quad, and the reset VAL has nothing to strip. -/
theorem commandsOnTheResetState : Obligations.CommandsOnTheResetState := by
  unfold Obligations.CommandsOnTheResetState
  have hin : State.reset.mem.bufIn.length = 0 := rfl
  refine ⟨?parsehdr, ?genhdr, ?parseattr, ?genattr, ?genxma, ?rmpad⟩
  case parsehdr => exact execParsehdr_of_error (parseHeader_short unitConfig (by omega))
  case genhdr => exact execGenhdr_of_error (generateHeader_otherMethod unitConfig (by decide))
  case parseattr => exact execParseattr_of_error (parseAttribute_short unitConfig (by omega))
  case genattr => exact execGenattr_of_ok generateAttribute_reset
  case genxma =>
    have hfamily : (addressOperand State.reset).family = .ipv4 := addressOperand_family_ipv4 rfl
    have hstring : parseDottedQuad (addressOperand State.reset).address = none := rfl
    exact execGenxma_of_error (generateXorMappedAddress_addrFormat hfamily hstring)
  case rmpad => exact execRmpad_of_fits (Nat.zero_le unitConfig.valCap)

/-- Settles O54: the step takes the action off the script and performs it, and a platform reset keeps the host's side
alone (log entry 12). -/
theorem platformResetRestoresTheResetState : Obligations.PlatformResetRestoresTheResetState := by
  unfold Obligations.PlatformResetRestoresTheResetState
  intro s rest hs
  have hreset : platformReset (s.setScript rest) =
      .next { State.reset with script := rest, observed := s.observed } := rfl
  exact (step_cons hs).trans hreset

end Sys2Proof.Machine
end
